-- ==== Sys2Proof/Word.lean ====
section
/-! DEFINITION. The words of the machine: the byte on the link, the stored entry, the column lines.
Bit 0 is the least significant bit (`00_scope.md` section 6). -/

namespace Sys2Proof

/-- One command byte, as the serial receiver hands it to the block (R60). -/
abbrev Byte := BitVec 8

/-- One entry of the Row State Store and, equally, the four row lines: bit r is row r (R20, R24, R29). -/
abbrev Entry := BitVec 4

/-- The twenty logical column-select lines: bit c is column c, 0 selects it (R25, R30). -/
abbrev ColLines := BitVec 20

/-- A column of the grid, `c ∈ [0,20)`: NCOL = 20 is a constant of the hardware, not a parameter (R8). -/
abbrev Column := Fin 20

/-- A physical row of the grid, `r ∈ [0,4)`: NROW = 4, likewise (R8). -/
abbrev Row := Fin 4

/-- A pair of latch values `(ROW_OUT, COL_OUT)`, as `emit` appends it to the output trace (R106). -/
abbrev LatchPair := Entry × ColLines

end Sys2Proof
end

