-- ==== Sys2Proof/Config.lean ====
section
/-! DEFINITION. The static parameters of the block (R9, R10). None of them is changed by any event. The
spec leaves ROW_ON_LEVEL, CURSOR_RESET and PINMAP OPEN ("the model takes it as an argument and every claim
quantifies over it"), so they are data that the state carries unchanged (log entry 1), not constants. -/

namespace Sys2Proof

/-- VARIANT ∈ {A, B}: the command encoding policy, selected once at build time (R9). -/
inductive Variant
  | a
  | b
  deriving DecidableEq, Repr

/-- One bit of a physical column output group: a column line, or a bit that carries the group's fixed
inactive baseline (R26). -/
inductive Pin
  | line (c : Column)
  | baseline (level : Bool)
  deriving DecidableEq, Repr

/-- PINMAP: which column line sits at which bit of which of the three output groups, with each group's
baseline bits (R26, decision D10; that the map is such a wiring is DEDUCED, log entry 9). -/
structure PinMap where
  group0 : List Pin
  group1 : List Pin
  group2 : List Pin
  deriving DecidableEq, Repr

/-- The parameters of R10 that a step can read. NCOL, NROW, the field widths, COL_ACTIVE_LEVEL and
OOB_POLICY = ignore are fixed by the spec and stand in the definitions that use them; CNT_W = 16 is the
width of `selftestTicks`; TICK_HZ, BAUD and FRAME are timing only. -/
structure Config where
  /-- VARIANT. -/
  variant : Variant
  /-- ROW_ON_LEVEL: the level of a row line and of a stored bit that lights the LED (true is 1). OPEN (D2). -/
  rowOnLevel : Bool
  /-- SELFTEST_TICKS: 1000, kept as a field as D8 asks. -/
  selftestTicks : BitVec 16
  /-- CURSOR_RESET, in [0,20). OPEN (D7). -/
  cursorReset : Column
  /-- PINMAP. OPEN (D10). -/
  pinMap : PinMap
  deriving DecidableEq, Repr

/-- A wiring that names no particular group widths: every column line in the first group, in order.
DESIGN CHOICE (log entry 9): no statement rests on it. -/
def PinMap.plain : PinMap :=
  { group0 := (List.finRange 20).map Pin.line, group1 := [], group2 := [] }

/-- The configuration of `State.reset`: ROW_ON_LEVEL = 0 and CURSOR_RESET = 0, the values R10 names "if one
value is needed", SELFTEST_TICKS = 1000. VARIANT = A and the plain wiring are DESIGN CHOICE (log entries 2
and 9): the spec names no default for either. -/
def Config.standard : Config :=
  { variant := .a, rowOnLevel := false, selftestTicks := 1000#16, cursorReset := 0, pinMap := PinMap.plain }

end Sys2Proof
end

