-- ==== Sys2Proof/Syntax.lean ====
section
/-! DEFINITION. The instructions: the six command bytes of `spec/opcode_table.json` (R68), one constructor
a row. Operands are the bit fields of the byte (R63, R64): any 5-bit column is an operand, columns 20 to 31
included (R70). -/

namespace Sys2Proof

inductive Instr
  /-- LEDA.OFF c, g (R81). -/
  | ledaOff (column : BitVec 5) (group : BitVec 1)
  /-- LEDA.PRI c, g (R82). -/
  | ledaPri (column : BitVec 5) (group : BitVec 1)
  /-- LEDA.SEC c, g (R83). -/
  | ledaSec (column : BitVec 5) (group : BitVec 1)
  /-- LEDA.BOTH c, g (R84). -/
  | ledaBoth (column : BitVec 5) (group : BitVec 1)
  /-- LEDB.OFF c, r (R91). -/
  | ledbOff (column : BitVec 5) (row : BitVec 2)
  /-- LEDB.ON c, r (R92). -/
  | ledbOn (column : BitVec 5) (row : BitVec 2)
  deriving DecidableEq, Repr

/-- The variant whose command the instruction is (R68). -/
def Instr.variant : Instr → Variant
  | .ledaOff _ _ => .a
  | .ledaPri _ _ => .a
  | .ledaSec _ _ => .a
  | .ledaBoth _ _ => .a
  | .ledbOff _ _ => .b
  | .ledbOn _ _ => .b

/-- The decoded column, 0 to 31. -/
def Instr.column : Instr → BitVec 5
  | .ledaOff c _ => c
  | .ledaPri c _ => c
  | .ledaSec c _ => c
  | .ledaBoth c _ => c
  | .ledbOff c _ => c
  | .ledbOn c _ => c

/-- The LED the instruction names, in the LED address space of its variant: 6 bits in Variant A (R41),
7 bits in Variant B (R42). -/
def Instr.ledAddress : Instr → BitVec 7
  | .ledaOff c g => (c ++ g).zeroExtend 7
  | .ledaPri c g => (c ++ g).zeroExtend 7
  | .ledaSec c g => (c ++ g).zeroExtend 7
  | .ledaBoth c g => (c ++ g).zeroExtend 7
  | .ledbOff c r => c ++ r
  | .ledbOn c r => c ++ r

/-- What the command says of physical row r of its column: `some true` on, `some false` off, `none` when the
row is not part of the LED it names. Group g is rows 2g (primary element) and 2g+1 (secondary element)
(R41, R65); in Variant B the row is the LED (R42, R66). -/
def Instr.says : Instr → Row → Option Bool
  | .ledaOff _ g, r => if r.val / 2 = g.toNat then some false else none
  | .ledaPri _ g, r => if r.val / 2 = g.toNat then some (r.val % 2 = 0) else none
  | .ledaSec _ g, r => if r.val / 2 = g.toNat then some (r.val % 2 = 1) else none
  | .ledaBoth _ g, r => if r.val / 2 = g.toNat then some true else none
  | .ledbOff _ w, r => if r.val = w.toNat then some false else none
  | .ledbOn _ w, r => if r.val = w.toNat then some true else none

end Sys2Proof
end

