-- ==== Sys2Proof/WellFormed.lean ====
section
/-! DEFINITION. Which instructions a block has. The operand ranges of R71 (column 0 to 31, group 0 to 1,
row 0 to 3) are the widths of the fields of `Instr`, so the one check left is the variant: a block of
variant v has the rows of v and no others (R68, R69). -/

namespace Sys2Proof

/-- The instruction is one of a block built for variant v. -/
def Instr.wellFormed (v : Variant) (i : Instr) : Bool :=
  i.variant == v

end Sys2Proof
end

