-- ==== Sys2Proof/Decode.lean ====
section
/-! DEFINITION. The decoder and, after it, the encoder. Every command is one byte (R60); every one of the 256
byte values decodes to exactly one instruction of the active variant (R68, R70), so the only refusal, by
name, is the absence of a byte. -/

namespace Sys2Proof

/-- Why a list of bytes holds no instruction. -/
inductive DecodeError
  /-- There is no byte: raised by `decodeBytes []` only. Safe: no command is read where none was sent. -/
  | noByte
  deriving DecidableEq, Repr

/-- Format A, `[state:2][column:5][group:1]` (R61, R63). -/
def stateFieldA (b : Byte) : BitVec 2 := b.extractLsb' 6 2
def columnFieldA (b : Byte) : BitVec 5 := b.extractLsb' 1 5
def groupFieldA (b : Byte) : BitVec 1 := b.extractLsb' 0 1

/-- Format B, `[state:1][column:5][row:2]` (R62, R64). -/
def stateFieldB (b : Byte) : BitVec 1 := b.extractLsb' 7 1
def columnFieldB (b : Byte) : BitVec 5 := b.extractLsb' 2 5
def rowFieldB (b : Byte) : BitVec 2 := b.extractLsb' 0 2

/-- The four rows of Variant A (R65, R68): the state field is the opcode. -/
def decodeA (b : Byte) : Instr :=
  if stateFieldA b = 0b00#2 then .ledaOff (columnFieldA b) (groupFieldA b)
  else if stateFieldA b = 0b01#2 then .ledaPri (columnFieldA b) (groupFieldA b)
  else if stateFieldA b = 0b10#2 then .ledaSec (columnFieldA b) (groupFieldA b)
  else .ledaBoth (columnFieldA b) (groupFieldA b)

/-- The two rows of Variant B (R66, R68). -/
def decodeB (b : Byte) : Instr :=
  if stateFieldB b = 0b0#1 then .ledbOff (columnFieldB b) (rowFieldB b)
  else .ledbOn (columnFieldB b) (rowFieldB b)

/-- The decoder: which variant's rows apply is decided by VARIANT alone (R69). -/
def decode (v : Variant) (b : Byte) : Instr :=
  match v with
  | .a => decodeA b
  | .b => decodeB b

/-- Decoding any list of bytes: the first command and the bytes after it ("each byte is
self-delimiting", R60). -/
def decodeBytes (v : Variant) : List Byte → Except DecodeError (Instr × List Byte)
  | [] => .error .noByte
  | b :: rest => .ok (decode v b, rest)

/-- The bytes of a word whose bit 0 is the least significant bit of the first byte. At least one byte: no
command is shorter (R60). -/
def wordBytes (nbits w : Nat) : List Byte :=
  (List.range (max 1 (nbits / 8))).map fun k => BitVec.ofNat 8 (w >>> (8 * k))

/-- What a block of variant v reads from a table word: `none` unless the word is one whole command. -/
def decodeWordOf (v : Variant) (nbits w : Nat) : Option Instr :=
  match decodeBytes v (wordBytes nbits w) with
  | .ok (i, []) => some i
  | .ok (_, _ :: _) => none
  | .error _ => none

/-- The host's reading of a table word: by the variant of `State.reset`. The rows of the other variant are
words of this one too (R69), so this function gives for them the active variant's instruction (log entry 2). -/
def decodeTableWord (nbits w : Nat) : Option Instr :=
  decodeWordOf Config.standard.variant nbits w

/-- The encoding formulas of R71, `(state << 6) | (c << 1) | g` and `(state << 7) | (c << 2) | r`. -/
def encodeA (st : BitVec 2) (c : BitVec 5) (g : BitVec 1) : Byte :=
  (st.zeroExtend 8 <<< 6) ||| (c.zeroExtend 8 <<< 1) ||| g.zeroExtend 8

def encodeB (st : BitVec 1) (c : BitVec 5) (r : BitVec 2) : Byte :=
  (st.zeroExtend 8 <<< 7) ||| (c.zeroExtend 8 <<< 2) ||| r.zeroExtend 8

/-- The command byte of an instruction (R65, R66, R68, R71). -/
def encode : Instr → Byte
  | .ledaOff c g => encodeA 0b00#2 c g
  | .ledaPri c g => encodeA 0b01#2 c g
  | .ledaSec c g => encodeA 0b10#2 c g
  | .ledaBoth c g => encodeA 0b11#2 c g
  | .ledbOff c r => encodeB 0b0#1 c r
  | .ledbOn c r => encodeB 0b1#1 c r

/-- One row of the opcode table of R68: a byte belongs to it when `byte & mask = match`. -/
structure OpcodeRow where
  variant : Variant
  matchBits : Byte
  mask : Byte
  deriving DecidableEq, Repr

/-- The row of R68's table an instruction belongs to, copied from the table, not from the encoder. -/
def Instr.tableRow : Instr → OpcodeRow
  | .ledaOff _ _ => ⟨.a, 0x00#8, 0xC0#8⟩
  | .ledaPri _ _ => ⟨.a, 0x40#8, 0xC0#8⟩
  | .ledaSec _ _ => ⟨.a, 0x80#8, 0xC0#8⟩
  | .ledaBoth _ _ => ⟨.a, 0xC0#8, 0xC0#8⟩
  | .ledbOff _ _ => ⟨.b, 0x00#8, 0x80#8⟩
  | .ledbOn _ _ => ⟨.b, 0x80#8, 0x80#8⟩

end Sys2Proof
end

