-- ==== Sys2Proof/Machine/Levels.lean ====
section
/-! DEFINITION. Logic levels: the polarity map, the two whole-column patterns and the Column Drive Table. -/

namespace Sys2Proof.Machine

/-- `pol_n(v)`: v when ROW_ON_LEVEL = 1, its n-bit complement when ROW_ON_LEVEL = 0 (R67). -/
def pol {n : Nat} (rowOnLevel : Bool) (v : BitVec n) : BitVec n :=
  if rowOnLevel then v else ~~~v

/-- ALL_OFF = `pol_4(0b0000)` (R22). -/
def allOff (rowOnLevel : Bool) : Entry := pol rowOnLevel 0b0000#4

/-- ALL_ON = `pol_4(0b1111)` (R22). -/
def allOn (rowOnLevel : Bool) : Entry := pol rowOnLevel 0b1111#4

/-- `COLTAB[c] = 0xFFFFF ^ (1 << c)`: the read-only Column Drive Table, a constant function (R25). -/
def colTab (c : Column) : ColLines := 0xFFFFF#20 ^^^ (1#20 <<< c.val)

/-- Every column line inactive (R39). -/
def noColumn : ColLines := 0xFFFFF#20

/-- The level a pin carries: its column line, or its baseline (R26). -/
def pinLevel (cols : ColLines) : Pin → Bool
  | .line c => cols.getLsbD c.val
  | .baseline level => level

/-- The three physical output groups: `PINMAP(COL_OUT)`, combinational (R26, R30). -/
def pinOutputs (m : PinMap) (cols : ColLines) : List Bool × List Bool × List Bool :=
  (m.group0.map (pinLevel cols), m.group1.map (pinLevel cols), m.group2.map (pinLevel cols))

/-- A PINMAP of this hardware brings every column line out, on exactly one pin (R26: the map is injective). -/
def pinMapComplete (m : PinMap) : Bool :=
  (List.finRange 20).all fun c => (m.group0 ++ m.group1 ++ m.group2).count (Pin.line c) == 1

end Sys2Proof.Machine
end

