-- ==== Sys2Proof/Machine/Operands.lean ====
section
/-! DEFINITION. The operand forms: which bits of an entry a command owns, and what it stores there. -/

namespace Sys2Proof.Machine

/-- Group g owns stored bits 2g+1 and 2g (R80, decision D4). -/
def groupMask (g : BitVec 1) : Entry := 0b0011#4 <<< (2 * g.toNat)

/-- `zext_4(pol_2(s)) << (2*g)` (R80): state bit 0, the primary element, at bit 2g. -/
def groupValue (rowOnLevel : Bool) (st : BitVec 2) (g : BitVec 1) : Entry :=
  (pol rowOnLevel st).zeroExtend 4 <<< (2 * g.toNat)

/-- Row r owns stored bit r (R90). -/
def rowMask (r : BitVec 2) : Entry := 0b0001#4 <<< r.toNat

/-- `zext_4(pol_1(s)) << r` (R90). -/
def rowValue (rowOnLevel : Bool) (st : BitVec 1) (r : BitVec 2) : Entry :=
  (pol rowOnLevel st).zeroExtend 4 <<< r.toNat

/-- `(CURSOR + 1) mod 20`: the wrap is 19 to 0 (R102). -/
def nextColumn (c : Column) : Column :=
  ⟨(c.val + 1) % 20, Nat.mod_lt _ (by decide)⟩

end Sys2Proof.Machine
end

