-- ==== Sys2Proof/Machine/State.lean ====
section
/-! DEFINITION. The state of the block, as plain data, and the state after reset (R20 to R39). -/

namespace Sys2Proof.Machine

/-- The block's inputs (R121, R140): the only things that make it act. -/
inductive Event
  /-- The reset input. -/
  | reset
  /-- The periodic event that runs the Scan Engine once. -/
  | tick
  /-- One received byte with the receiver's error flag. -/
  | rx (byte : Byte) (err : Bool)
  deriving DecidableEq, Repr

/-- The reasons the machine stops with a fault: none. "Nothing in the hardware traps, hangs or blocks"
(`93_implementation_defined.md` section 2; R120), so the type has no constructor. -/
inductive Fault : Type
  deriving DecidableEq, Repr

/-- The reasons a step gives no meaning. -/
inductive Refusal
  /-- Raised by `exec`'s arm of an instruction that has no meaning yet. Safe. No arm raises it. -/
  | notModelled (mnemonic : String)
  deriving DecidableEq, Repr

structure State where
  /-- The static parameters (R10). Not the spec's state: carried so that every claim quantifies over them,
  changed by nothing (log entry 1). -/
  cfg : Config
  /-- RSS[0..19], the Row State Store: the register file and the only read-write memory (R20). -/
  rss : Vector Entry 20
  /-- CURSOR, the scan cursor, always in [0,20) (R27; log entry 6). -/
  cursor : Column
  /-- COUNTDOWN, the remaining self-test ticks, CNT_W = 16 bits (R28). -/
  countdown : BitVec 16
  /-- ROW_OUT, the row-drive latch (R29). -/
  rowOut : Entry
  /-- COL_OUT, the latch of logical column-select lines (R30). -/
  colOut : ColLines
  /-- The events the environment will present, in the order they are taken (R125). The model's own field:
  the environment's choice, not a queue inside the block (R31 b; log entry 3). -/
  input : List Event
  /-- The output trace `emit` appends to, since the latest reset, oldest first (R106). The model's own field:
  the observer's record of the two latches (log entry 4). -/
  trace : List LatchPair
  deriving DecidableEq, Repr

/-- The reset state under a configuration (R35 to R39, R140). -/
def State.resetOf (cfg : Config) : State :=
  { cfg := cfg
    rss := Vector.replicate 20 (allOff cfg.rowOnLevel)
    cursor := cfg.cursorReset
    countdown := cfg.selftestTicks
    rowOut := allOff cfg.rowOnLevel
    colOut := noColumn
    input := []
    trace := [] }

/-- The machine right after reset, under the one configuration the interface needs (log entry 2). -/
def State.reset : State := State.resetOf Config.standard

end Sys2Proof.Machine
end

