-- ==== Sys2Proof/Machine/Ops.lean ====
section
/-! DEFINITION. The named operations over the store and the latches: `MemRead`, `MemWrite`, `discard`, the
read-modify-write, the latch writes with `emit`, and reset. The block takes no exception and returns from
none (R120, R127); reset is the one event that changes all of its state. -/

namespace Sys2Proof.Machine

/-- `MemRead(c, 4)`: one atomic read of the whole entry (R48, R49); no side effect (R50). -/
def memRead (s : State) (c : Column) : Entry := s.rss[c.val]

/-- `MemWrite(c, 4, v)`: one atomic write of the whole entry (R48, R49). -/
def memWrite (c : Column) (v : Entry) (s : State) : State :=
  { s with rss := s.rss.set c.val v }

/-- `discard`: end the handling of a received byte with no change to any state (R122, R123). -/
def discard (s : State) : State := s

/-- The entry a decoded column names, if it has one: columns 0 to 19 are populated (R43). -/
def columnEntry (c : BitVec 5) : Option Column :=
  if h : c.toNat < 20 then some ⟨c.toNat, h⟩ else none

/-- The command decoder's access (R43, R48): a column without an entry is discarded (OOB_POLICY = ignore);
otherwise one read-modify-write of the entry, which replaces the bits under `mask` by those of `value`. -/
def readModifyWrite (c : BitVec 5) (mask value : Entry) (s : State) : State :=
  match columnEntry c with
  | none => discard s
  | some k => memWrite k ((memRead s k &&& ~~~mask) ||| value) s

/-- `emit(ROW_OUT, COL_OUT)`: append the current pair of latch values to the output trace (R106). -/
def emit (s : State) : State :=
  { s with trace := s.trace ++ [(s.rowOut, s.colOut)] }

/-- `ROW_OUT <- v`, a latch write of its own in the trace (R29, R106). -/
def driveRows (v : Entry) (s : State) : State :=
  emit { s with rowOut := v }

/-- `COL_OUT <- v`, a latch write of its own in the trace (R30, R106). -/
def selectColumns (v : ColLines) (s : State) : State :=
  emit { s with colOut := v }

/-- `CURSOR <- v` (R102). -/
def setCursor (v : Column) (s : State) : State :=
  { s with cursor := v }

/-- `COUNTDOWN <- v` (R105). -/
def setCountdown (v : BitVec 16) (s : State) : State :=
  { s with countdown := v }

/-- The Reset event (R140): the reset state, whatever stood before. The parameters are not state, and the
events still to come are the environment's. -/
def takeReset (s : State) : State :=
  { State.resetOf s.cfg with input := s.input }

end Sys2Proof.Machine
end

