-- ==== Sys2Proof/Machine/VariantA.lean ====
section
/-! DEFINITION. The four Variant A commands (two-color LEDs), over `WriteGroupA` (R80 to R84). They do not test
VARIANT: which commands a block has is the decoder's matter (R69; log entry 10). -/

namespace Sys2Proof.Machine

/-- `WriteGroupA` after the field extraction (R80). -/
def writeGroupA (st : BitVec 2) (c : BitVec 5) (g : BitVec 1) (s : State) : State :=
  readModifyWrite c (groupMask g) (groupValue s.cfg.rowOnLevel st g) s

/-- LEDA.OFF c, g: s = 0b00 (R81). -/
def execLedaOff (c : BitVec 5) (g : BitVec 1) (s : State) : Host.Outcome State Fault Refusal :=
  .next (writeGroupA 0b00#2 c g s)

/-- LEDA.PRI c, g: s = 0b01 (R82). -/
def execLedaPri (c : BitVec 5) (g : BitVec 1) (s : State) : Host.Outcome State Fault Refusal :=
  .next (writeGroupA 0b01#2 c g s)

/-- LEDA.SEC c, g: s = 0b10 (R83). -/
def execLedaSec (c : BitVec 5) (g : BitVec 1) (s : State) : Host.Outcome State Fault Refusal :=
  .next (writeGroupA 0b10#2 c g s)

/-- LEDA.BOTH c, g: s = 0b11 (R84). -/
def execLedaBoth (c : BitVec 5) (g : BitVec 1) (s : State) : Host.Outcome State Fault Refusal :=
  .next (writeGroupA 0b11#2 c g s)

end Sys2Proof.Machine
end

