-- ==== Sys2Proof/Machine/VariantB.lean ====
section
/-! DEFINITION. The two Variant B commands (single LEDs), over `WriteBitB` (R90 to R92). They do not test
VARIANT (log entry 10). -/

namespace Sys2Proof.Machine

/-- `WriteBitB` after the field extraction (R90). -/
def writeBitB (st : BitVec 1) (c : BitVec 5) (r : BitVec 2) (s : State) : State :=
  readModifyWrite c (rowMask r) (rowValue s.cfg.rowOnLevel st r) s

/-- LEDB.OFF c, r: s = 0 (R91). -/
def execLedbOff (c : BitVec 5) (r : BitVec 2) (s : State) : Host.Outcome State Fault Refusal :=
  .next (writeBitB 0b0#1 c r s)

/-- LEDB.ON c, r: s = 1 (R92). -/
def execLedbOn (c : BitVec 5) (r : BitVec 2) (s : State) : Host.Outcome State Fault Refusal :=
  .next (writeBitB 0b1#1 c r s)

end Sys2Proof.Machine
end

