-- ==== Sys2Proof/Machine/Dispatch.lean ====
section
/-! DEFINITION. One arm per command of the opcode table (R68). -/

namespace Sys2Proof.Machine

def exec (i : Instr) (s : State) : Host.Outcome State Fault Refusal :=
  match i with
  | .ledaOff c g => Sys2Proof.Machine.execLedaOff c g s
  | .ledaPri c g => Sys2Proof.Machine.execLedaPri c g s
  | .ledaSec c g => Sys2Proof.Machine.execLedaSec c g s
  | .ledaBoth c g => Sys2Proof.Machine.execLedaBoth c g s
  | .ledbOff c r => Sys2Proof.Machine.execLedbOff c r s
  | .ledbOn c r => Sys2Proof.Machine.execLedbOn c r s

end Sys2Proof.Machine
end

