-- ==== Sys2Proof/Machine/Flags.lean ====
section
/-! DEFINITION. The hardware has no status flags, condition codes or error flags (R31 c), so there is no flag
computation. What stands here is the one condition of the state that a step tests. -/

namespace Sys2Proof.Machine

/-- The self-test window is open: COUNTDOWN > 0 (R105, R128). -/
def selfTestOpen (s : State) : Bool := decide (0#16 < s.countdown)

end Sys2Proof.Machine
end

