-- ==== Sys2Proof/Machine/ScanEngine.lean ====
section
/-! DEFINITION. The Scan Engine's one operation, `onTick()`: five steps in order (R100 to R106). -/

namespace Sys2Proof.Machine

/-- Step 1, blank: `ROW_OUT <- ALL_OFF`, unconditional (R101). -/
def tickBlank (s : State) : State := driveRows (allOff s.cfg.rowOnLevel) s

/-- Step 2, advance: `CURSOR <- (CURSOR + 1) mod 20` (R102). -/
def tickAdvance (s : State) : State := setCursor (nextColumn s.cursor) s

/-- Step 3, select: `COL_OUT <- COLTAB[CURSOR]`, the new cursor (R103). -/
def tickSelect (s : State) : State := selectColumns (colTab s.cursor) s

/-- Step 4, drive: `ROW_OUT <- MemRead(CURSOR, 4)`; the translation is the identity (R104, decision D3). -/
def tickDrive (s : State) : State := driveRows (memRead s s.cursor) s

/-- Step 5, self-test: while COUNTDOWN > 0, ALL_ON replaces the rows just written and COUNTDOWN counts down
(R105). The stored entry stands on ROW_OUT between steps 4 and 5 (R107, decision D12). -/
def tickSelfTest (s : State) : State :=
  if selfTestOpen s then setCountdown (s.countdown - 1#16) (driveRows (allOn s.cfg.rowOnLevel) s) else s

/-- `onTick()` (R106): always completes ("onTick cannot fail", R100). -/
def onTick (s : State) : State :=
  tickSelfTest (tickDrive (tickSelect (tickAdvance (tickBlank s))))

end Sys2Proof.Machine
end

