-- ==== Sys2Proof/Machine/Events.lean ====
section
/-! DEFINITION. The events (R121): how the next one is taken, what each does, and what the environment may
present at the block's boundary. -/

namespace Sys2Proof.Machine

/-- `Rx(byte, err)` (R80, R90, R121, R122): a byte flagged in error is discarded, whatever it is; any other
is decoded by the active variant and its command carried out. -/
def onRx (b : Byte) (err : Bool) (s : State) : Host.Outcome State Fault Refusal :=
  if err then .next (discard s) else exec (decode s.cfg.variant b) s

/-- Each event is handled as one atomic step, wholly, by the agent it starts (R125 to R127, R140). -/
def handleEvent (e : Event) (s : State) : Host.Outcome State Fault Refusal :=
  match e with
  | .reset => .next (takeReset s)
  | .tick => .next (onTick s)
  | .rx b err => onRx b err s

/-- The event the block takes next, and the state in which it is handled (R125). -/
def takeEvent (s : State) : Option (Event × State) :=
  match s.input with
  | [] => none
  | e :: rest => some (e, { s with input := rest })

/-- No event has arrived: "the block is idle and holds its latches" (R133). -/
def idle (s : State) : State := s

/-- One step of the block: it takes the next event, or idles (R3, R125, R127). -/
def runNext (s : State) : Host.Outcome State Fault Refusal :=
  match takeEvent s with
  | none => .next (idle s)
  | some (e, s') => handleEvent e s'

/-- The environment presents these bytes, received without error, before anything else it had to present. -/
def presentBytes (bytes : List Byte) (s : State) : State :=
  { s with input := bytes.map (fun b => Event.rx b false) ++ s.input }

/-- What may arrive at the block at one moment. -/
structure Arrivals where
  reset : Bool
  tick : Bool
  rx : Option (Byte × Bool)
  deriving DecidableEq, Repr

/-- The orders in which arrivals of one moment may be taken: a tick and a byte in either order (R125,
decision D11); reset wins over any coincident event, which is lost (R142, decision D16). The environment's
event sequence holds one of them. -/
def Arrivals.orders (x : Arrivals) : List (List Event) :=
  if x.reset then [[.reset]]
  else match x.tick, x.rx with
    | false, none => [[]]
    | true, none => [[.tick]]
    | false, some (b, err) => [[.rx b err]]
    | true, some (b, err) => [[.rx b err, .tick], [.tick, .rx b err]]

/-- The receiver's error flag at the boundary: a framing error in either variant, a parity error in Variant B
only, as Variant A has no parity bit (R72, decision D14). -/
def receiveError (v : Variant) (framing parity : Bool) : Bool :=
  match v with
  | .a => framing
  | .b => framing || parity

end Sys2Proof.Machine
end

