-- ==== Sys2Proof/Machine/Step.lean ====
section
/-! DEFINITION. One step of the machine: it takes the next event of its input. -/

namespace Sys2Proof.Machine

/-- One event (R125), or idling (R133). -/
def step (s : State) : Host.Outcome State Fault Refusal := runNext s

/-- s with the command word as the next thing the environment presents: a program is the host's byte stream,
so the step takes its command from there (log entry 5). -/
def State.withFetchWord (s : State) (nbits w : Nat) : State :=
  presentBytes (wordBytes nbits w) s

end Sys2Proof.Machine
end

