-- ==== Sys2Proof/Safety.lean ====
section
/-! DEFINITION. The words in which claims are made: a run over an event sequence, the rendered values, which LEDs
are lit, the anti-ghost condition, and the invariant of every reachable state. -/

namespace Sys2Proof.Machine

/-- The machine, run for n steps. -/
def runFor (n : Nat) (s : State) : Host.Outcome State Fault Refusal := Host.Core.run Sys2Proof.core n s

/-- The block takes the event sequence `es`, one event a step, before anything else in its input (R125). -/
def process (es : List Event) (s : State) : Host.Outcome State Fault Refusal :=
  runFor es.length { s with input := es ++ s.input }

/-- How many ticks an event sequence holds. -/
def ticksIn (es : List Event) : Nat := es.countP (· == .tick)

/-- The sequence holds no Reset event: a claim that counts ticks "from the latest reset" (R143) is about such
a sequence. -/
def noReset (es : List Event) : Bool := es.all (· != .reset)

/-- The command a byte event brings, if the decoder reads it (R122). -/
def eventCommand (v : Variant) : Event → Option Instr
  | .reset => none
  | .tick => none
  | .rx b err => if err then none else some (decode v b)

/-- The event brings a command for column c. -/
def commandsColumn (v : Variant) (c : Column) (e : Event) : Bool :=
  match eventCommand v e with
  | none => false
  | some i => i.column.toNat == c.val

/-- The pair (ROW_OUT, COL_OUT) the latches hold. -/
def latches (s : State) : LatchPair := (s.rowOut, s.colOut)

/-- The rendered value of each tick of an event sequence, in order: the latches at the end of the tick (R108). -/
def renderedValues : List Event → State → List LatchPair
  | [], _ => []
  | e :: es, s =>
    match handleEvent e s with
    | .next t => if e = .tick then latches t :: renderedValues es t else renderedValues es t
    | .fault _ => []
    | .refused _ => []

/-- The LED at (c, r) is driven: its column line and its row line are active (R109). -/
def lit (s : State) (c : Column) (r : Row) : Bool :=
  s.colOut.getLsbD c.val == false && s.rowOut.getLsbD r.val == s.cfg.rowOnLevel

/-- Between two consecutive latch pairs the column lines change only while the rows are blank (R111). -/
def blankSwitch (blank : Entry) (p q : LatchPair) : Prop :=
  p.2 ≠ q.2 → p.1 = blank ∧ q.1 = blank

/-- A trace that never changes column with the rows driven (R111, R147). -/
def antiGhost (blank : Entry) : List LatchPair → Prop
  | [] => True
  | [_] => True
  | p :: q :: rest => blankSwitch blank p q ∧ antiGhost blank (q :: rest)

/-- What holds in every reachable state (R33), with the anti-ghost condition over the trace (R111). Before
the first tick after a reset (no pair emitted yet) the scan registers and the latches stand as reset left
them; afterwards the latches hold the last pair emitted and the cursor's column is the one selected. -/
structure Inv (s : State) : Prop where
  countdown_le : s.countdown ≤ s.cfg.selftestTicks
  before_first_tick : s.trace = [] →
    s.cursor = s.cfg.cursorReset ∧ s.countdown = s.cfg.selftestTicks ∧
      s.rowOut = allOff s.cfg.rowOnLevel ∧ s.colOut = noColumn
  after_first_tick : s.trace ≠ [] → s.trace.getLast? = some (latches s) ∧ s.colOut = colTab s.cursor
  anti_ghost : antiGhost (allOff s.cfg.rowOnLevel) s.trace

/-- The five steps of a tick, in order, for claims about what lands between them (R52). -/
def tickSteps : List (State → State) := [tickBlank, tickAdvance, tickSelect, tickDrive, tickSelfTest]

/-- The steps of a list, carried out one after the other. -/
def doSteps (steps : List (State → State)) (s : State) : State := steps.foldl (fun s f => f s) s

/-- The tick of an implementation that merges steps 4 and 5 into one write (R107): the trace it appends. -/
def mergedTickTrace (s : State) : List LatchPair :=
  [(allOff s.cfg.rowOnLevel, s.colOut),
   (allOff s.cfg.rowOnLevel, colTab (nextColumn s.cursor)),
   (if selfTestOpen s then allOn s.cfg.rowOnLevel else memRead s (nextColumn s.cursor),
    colTab (nextColumn s.cursor))]

end Sys2Proof.Machine
end

