-- ==== Sys2Proof/Certificates/Slice0/Obligations.lean ====
section
/-! DEFINITION. The statements for the provers. A statement formalises a rule R<n> of spec/ ("stated") only where that
rule carries no [decision: …] and no [derived: …] mark of its own; a statement that rests on a rule so marked
is "derived", and its docstring says which decision or derivation of the spec, or which log entry of the
model, it rests on. Every statement quantifies over the parameters the spec leaves OPEN, through `s.cfg`. -/

open Sys2Proof Sys2Proof.Machine

namespace Sys2Proof.Claims

/-- The next event of s is `e`, with `rest` to come after it. -/
def Next (e : Event) (rest : List Event) (s : State) : Prop := s.input = e :: rest

/-- The bytes of a command: a byte belongs to the command exactly when `byte & mask = match`, its operands are
the fields of the byte, and the encoding is the three fields side by side. -/
def FormatA (ctor : BitVec 5 → BitVec 1 → Instr) (st : BitVec 2) (matchBits : Byte) : Prop :=
  (∀ b : Byte, b &&& 0xC0#8 = matchBits → decode .a b = ctor (b.extractLsb' 1 5) (b.extractLsb' 0 1)) ∧
  (∀ c g, (st ++ c ++ g) &&& 0xC0#8 = matchBits ∧ encode (ctor c g) = st ++ c ++ g)

def FormatB (ctor : BitVec 5 → BitVec 2 → Instr) (st : BitVec 1) (matchBits : Byte) : Prop :=
  (∀ b : Byte, b &&& 0x80#8 = matchBits → decode .b b = ctor (b.extractLsb' 2 5) (b.extractLsb' 0 2)) ∧
  (∀ c r, (st ++ c ++ r) &&& 0x80#8 = matchBits ∧ encode (ctor c r) = st ++ c ++ r)

/-- The effect of a Variant A command that puts its group's elements in the given states, on every state and
all operands: discarded for c ≥ 20; else bit 2g (primary) and bit 2g+1 (secondary) become ROW_ON_LEVEL (on) or
its complement (off), the other group's bits, every other entry and everything else stay, and an entry that
already holds that state leaves the whole machine unchanged. -/
def SetsGroup (ctor : BitVec 5 → BitVec 1 → Instr) (secondaryOn primaryOn : Bool) : Prop :=
  ∀ (s : State) (c : BitVec 5) (g : BitVec 1),
    (20 ≤ c.toNat → exec (ctor c g) s = .next s) ∧
    ∀ k : Column, k.val = c.toNat → ∃ t, exec (ctor c g) s = .next t ∧
      (memRead t k).getLsbD (2 * g.toNat) = (primaryOn == s.cfg.rowOnLevel) ∧
      (memRead t k).getLsbD (2 * g.toNat + 1) = (secondaryOn == s.cfg.rowOnLevel) ∧
      (∀ r : Row, r.val / 2 ≠ g.toNat → (memRead t k).getLsbD r.val = (memRead s k).getLsbD r.val) ∧
      (∀ d : Column, d ≠ k → memRead t d = memRead s d) ∧
      t = { s with rss := t.rss } ∧
      ((memRead s k).getLsbD (2 * g.toNat) = (primaryOn == s.cfg.rowOnLevel) →
        (memRead s k).getLsbD (2 * g.toNat + 1) = (secondaryOn == s.cfg.rowOnLevel) → t = s)

/-- The effect of a Variant B command, likewise: one bit, at position r. -/
def SetsRow (ctor : BitVec 5 → BitVec 2 → Instr) (on : Bool) : Prop :=
  ∀ (s : State) (c : BitVec 5) (r : BitVec 2),
    (20 ≤ c.toNat → exec (ctor c r) s = .next s) ∧
    ∀ k : Column, k.val = c.toNat → ∃ t, exec (ctor c r) s = .next t ∧
      (memRead t k).getLsbD r.toNat = (on == s.cfg.rowOnLevel) ∧
      (∀ q : Row, q.val ≠ r.toNat → (memRead t k).getLsbD q.val = (memRead s k).getLsbD q.val) ∧
      (∀ d : Column, d ≠ k → memRead t d = memRead s d) ∧
      t = { s with rss := t.rss } ∧
      ((memRead s k).getLsbD r.toNat = (on == s.cfg.rowOnLevel) → t = s)

/-- A worked example of a rule: the byte, received without error, takes the entry from `before` to `after`. -/
def ByteTakes (v : Variant) (level : Bool) (byte : Byte) (k : Column) (before after : Entry) : Prop :=
  ∀ (s : State) (rest : List Event), s.cfg.variant = v → s.cfg.rowOnLevel = level →
    Next (.rx byte false) rest s → memRead s k = before →
    ∃ t, step s = .next t ∧ memRead t k = after

/-- The column a byte decodes to is 20 to 31, in the terms of the address field (R70). -/
def OutOfGrid : Variant → Byte → Prop
  | .a, b => 40 ≤ (b.extractLsb' 0 6).toNat
  | .b, b => 80 ≤ (b.extractLsb' 0 7).toNat

/-- No command of the sequence is for column k. -/
def Untouched (v : Variant) (k : Column) (es : List Event) : Prop :=
  ∀ e ∈ es, commandsColumn v k e = false

end Sys2Proof.Claims

open Sys2Proof.Claims

/-! ### Encoding -/

/-- R68's table with R63's and R64's operands. In each variant the byte's state field is the opcode; the operands
are `address >> 1` and `address & 1` of the low 6 bits (A), `address >> 2` and `address & 3` of the low 7 bits
(B); and every byte value belongs to exactly one row of the active variant. -/
def Obligations.EveryByteDecodesByItsTableRow : Prop :=
  (∀ b : Byte,
    let address : BitVec 6 := b.extractLsb' 0 6
    let c : BitVec 5 := (address >>> 1).truncate 5
    let g : BitVec 1 := (address &&& 1#6).truncate 1
    c = b.extractLsb' 1 5 ∧ g = b.extractLsb' 0 1 ∧
    (b.extractLsb' 6 2 = 0b00#2 ↔ b &&& 0xC0#8 = 0x00#8) ∧ (b &&& 0xC0#8 = 0x00#8 → decode .a b = .ledaOff c g) ∧
    (b.extractLsb' 6 2 = 0b01#2 ↔ b &&& 0xC0#8 = 0x40#8) ∧ (b &&& 0xC0#8 = 0x40#8 → decode .a b = .ledaPri c g) ∧
    (b.extractLsb' 6 2 = 0b10#2 ↔ b &&& 0xC0#8 = 0x80#8) ∧ (b &&& 0xC0#8 = 0x80#8 → decode .a b = .ledaSec c g) ∧
    (b.extractLsb' 6 2 = 0b11#2 ↔ b &&& 0xC0#8 = 0xC0#8) ∧ (b &&& 0xC0#8 = 0xC0#8 → decode .a b = .ledaBoth c g)) ∧
  (∀ b : Byte,
    let address : BitVec 7 := b.extractLsb' 0 7
    let c : BitVec 5 := (address >>> 2).truncate 5
    let r : BitVec 2 := (address &&& 3#7).truncate 2
    c = b.extractLsb' 2 5 ∧ r = b.extractLsb' 0 2 ∧
    (b.extractLsb' 7 1 = 0b0#1 ↔ b &&& 0x80#8 = 0x00#8) ∧ (b &&& 0x80#8 = 0x00#8 → decode .b b = .ledbOff c r) ∧
    (b.extractLsb' 7 1 = 0b1#1 ↔ b &&& 0x80#8 = 0x80#8) ∧ (b &&& 0x80#8 = 0x80#8 → decode .b b = .ledbOn c r)) ∧
  (∀ (v : Variant) (b : Byte), ∃! row : OpcodeRow,
    row ∈ ([⟨.a, 0x00#8, 0xC0#8⟩, ⟨.a, 0x40#8, 0xC0#8⟩, ⟨.a, 0x80#8, 0xC0#8⟩, ⟨.a, 0xC0#8, 0xC0#8⟩,
            ⟨.b, 0x00#8, 0x80#8⟩, ⟨.b, 0x80#8, 0x80#8⟩] : List OpcodeRow) ∧
      row.variant = v ∧ b &&& row.mask = row.matchBits ∧ (decode v b).tableRow = row)

/-- A sanity statement: words written out from the spec's encodings (R81 to R84, R91, R92 and the source's
examples S1, S2) decode to the instructions they stand for. -/
def Obligations.SpecWordsDecode : Prop :=
  decode .a 0b00000110#8 = .ledaOff 3 0 ∧ decode .a 0b01000001#8 = .ledaPri 0 1 ∧
  decode .a 0b10000110#8 = .ledaSec 3 0 ∧ decode .a 0b11100111#8 = .ledaBoth 19 1 ∧
  decode .b 0b00000101#8 = .ledbOff 1 1 ∧ decode .b 0b10000101#8 = .ledbOn 1 1 ∧
  decode .b 0b11010000#8 = .ledbOn 20 0

/-- Decode and encode agree, with whatever bytes follow: rests on the encoding formulas of R71, the spec's own
notation (decision D13). -/
def Obligations.DecodeOfEncodeIsTheInstruction : Prop :=
  ∀ (v : Variant) (i : Instr) (rest : List Byte), i.wellFormed v = true →
    decodeBytes v (encode i :: rest) = .ok (i, rest)

/-- The other direction: every byte, in either variant, decodes to an instruction of that variant whose encoding
is the byte. Rests on R71 (decision D13). -/
def Obligations.EncodeOfDecodeIsTheByte : Prop :=
  ∀ (v : Variant) (b : Byte), (decode v b).wellFormed v = true ∧ encode (decode v b) = b

/-- R69: the variant alone decides which rows apply, statically; `0x85` means different things in the two
variants; no event changes the variant. -/
def Obligations.VariantAloneDecidesMeaning : Prop :=
  (∀ (s : State) (rest : List Event), Next (.rx 0x85#8 false) rest s →
    (s.cfg.variant = .b → step s = exec (.ledbOn 1 1) { s with input := rest }) ∧
    (s.cfg.variant = .a → step s = exec (.ledaSec 2 1) { s with input := rest })) ∧
  (∀ (s s' : State) (b : Byte) (rest : List Event), s.cfg.variant = s'.cfg.variant →
    Next (.rx b false) rest s → Next (.rx b false) rest s' →
    ∃ i : Instr, i.variant = s.cfg.variant ∧ step s = exec i { s with input := rest } ∧
      step s' = exec i { s' with input := rest }) ∧
  (∀ s t : State, step s = .next t → t.cfg.variant = s.cfg.variant)

/-- R70: no byte value traps, and the only bytes without effect are those whose column is 20 to 31 (96 of the 256
in each variant); every other byte changes the machine from some state. -/
def Obligations.OnlyOutOfGridBytesHaveNoEffect : Prop :=
  (∀ (v : Variant) (b : Byte),
    (∀ (s : State) (rest : List Event), s.cfg.variant = v → Next (.rx b false) rest s → ∃ t, step s = .next t) ∧
    ((∀ (s : State) (rest : List Event), s.cfg.variant = v → Next (.rx b false) rest s →
        step s = .next { s with input := rest }) ↔ OutOfGrid v b) ∧
    (OutOfGrid v b ↔ 20 ≤ (decode v b).column.toNat)) ∧
  ((List.finRange 256).filter fun n => 40 ≤ ((BitVec.ofFin n : Byte).extractLsb' 0 6).toNat).length = 96 ∧
  ((List.finRange 256).filter fun n => 80 ≤ ((BitVec.ofFin n : Byte).extractLsb' 0 7).toNat).length = 96

/-! ### The step -/

/-- A step runs the decoded instruction: when the next event is a byte without error, and the byte decodes to a
well-formed instruction i, the step is `exec i` once the event is taken. Nothing else is added around it.
The event form is the spec's decision D1. -/
def Obligations.StepRunsTheDecodedInstruction : Prop :=
  ∀ (s : State) (b : Byte) (i : Instr) (rest : List Event), Next (.rx b false) rest s →
    decodeBytes s.cfg.variant [b] = .ok (i, []) → i.wellFormed s.cfg.variant = true →
    step s = exec i { s with input := rest }

/-- The first step after reset, with a table word placed, runs the instruction the word decodes to. That the word
is placed as the next received byte is the model's (log entry 5). -/
def Obligations.FetchedWordRunsAfterReset : Prop :=
  ∀ (w : Nat) (i : Instr), decodeTableWord 8 w = some i → step (State.reset.withFetchWord 8 w) = exec i State.reset

/-- A byte flagged in error is discarded, whatever it is and in both variants (R122, decision D14); with no event
the block is idle and holds its latches (R133). -/
def Obligations.ErrorByteAndIdleChangeNothing : Prop :=
  (∀ (s : State) (b : Byte) (rest : List Event), Next (.rx b true) rest s → step s = .next { s with input := rest }) ∧
  (∀ s : State, s.input = [] → step s = .next s)

/-- "A model may equally omit such events from the event sequence; the two are the same machine" (R122, decision
D14): leaving the error bytes out of any sequence gives the same outcome. -/
def Obligations.OmittingErrorBytesIsTheSameMachine : Prop :=
  ∀ (es : List Event) (s : State),
    process es s = process (es.filter fun e => match e with | .rx _ err => !err | _ => true) s

/-- Every event's handling ends and no event stalls another: any event sequence is wholly handled, one event a step,
with a next state each time (R100, R120, R126; R127 is the spec's derivation). -/
def Obligations.EveryEventSequenceIsHandled : Prop :=
  ∀ (es : List Event) (s : State), ∃ t, process es s = .next t ∧ t.input = s.input ∧ t.cfg = s.cfg

/-! ### The commands -/

/-- R81, LEDA.OFF: operands, encoding, effect, discard, corner cases, example. The positions of a group's bits
are the spec's own choice (decision D4), which R81's text states. -/
def Obligations.LedaOffDarkensItsGroup : Prop :=
  FormatA .ledaOff 0b00#2 0x00#8 ∧ SetsGroup .ledaOff false false ∧ decode .a 0x00#8 = .ledaOff 0 0 ∧
  ByteTakes .a true 0x06#8 3 0x6#4 0x4#4 ∧ ByteTakes .a false 0x06#8 3 0x9#4 0xB#4

/-- R82, LEDA.PRI: it sets the whole two-bit state, so it clears the secondary element. Bit positions: D4. -/
def Obligations.LedaPriLightsPrimaryOnly : Prop :=
  FormatA .ledaPri 0b01#2 0x40#8 ∧ SetsGroup .ledaPri false true ∧
  ByteTakes .a true 0x41#8 0 0x0#4 0x4#4 ∧ ByteTakes .a false 0x41#8 0 0xF#4 0xB#4

/-- R83, LEDA.SEC: it clears the primary element. Bit positions: D4. -/
def Obligations.LedaSecLightsSecondaryOnly : Prop :=
  FormatA .ledaSec 0b10#2 0x80#8 ∧ SetsGroup .ledaSec true false ∧
  ByteTakes .a true 0x86#8 3 0x3#4 0x2#4 ∧ ByteTakes .a false 0x86#8 3 0xC#4 0xD#4

/-- R84, LEDA.BOTH: both elements on; 0xFF is discarded; the highest effective byte is 0xE7. Bit positions: D4. -/
def Obligations.LedaBothLightsItsGroup : Prop :=
  FormatA .ledaBoth 0b11#2 0xC0#8 ∧ SetsGroup .ledaBoth true true ∧
  decode .a 0xFF#8 = .ledaBoth 31 1 ∧ decode .a 0xE7#8 = .ledaBoth 19 1 ∧
  (∀ b : Byte, b &&& 0xC0#8 = 0xC0#8 → ((decode .a b).column.toNat < 20 ↔ b ≤ 0xE7#8)) ∧
  ByteTakes .a true 0xC6#8 3 0x0#4 0x3#4 ∧ ByteTakes .a false 0xC6#8 3 0xF#4 0xC#4

/-- R91, LEDB.OFF: bytes 0x50 to 0x7F are discarded; the highest effective byte is 0x4F (column 19, row 3). -/
def Obligations.LedbOffDarkensItsLed : Prop :=
  FormatB .ledbOff 0b0#1 0x00#8 ∧ SetsRow .ledbOff false ∧
  decode .b 0x00#8 = .ledbOff 0 0 ∧ decode .b 0x4F#8 = .ledbOff 19 3 ∧
  (∀ b : Byte, b &&& 0x80#8 = 0x00#8 →
    ((decode .b b).column.toNat < 20 ↔ b ≤ 0x4F#8) ∧ (20 ≤ (decode .b b).column.toNat ↔ 0x50#8 ≤ b ∧ b ≤ 0x7F#8)) ∧
  ByteTakes .b true 0x05#8 1 0x2#4 0x0#4 ∧ ByteTakes .b false 0x05#8 1 0xD#4 0xF#4

/-- R92, LEDB.ON: bytes 0xD0 to 0xFF are discarded; the highest effective byte is 0xCF (column 19, row 3) and 0xD0
(column 20, row 0) is the lowest discarded one. -/
def Obligations.LedbOnLightsItsLed : Prop :=
  FormatB .ledbOn 0b1#1 0x80#8 ∧ SetsRow .ledbOn true ∧
  decode .b 0xCF#8 = .ledbOn 19 3 ∧ decode .b 0xD0#8 = .ledbOn 20 0 ∧
  (∀ b : Byte, b &&& 0x80#8 = 0x80#8 →
    ((decode .b b).column.toNat < 20 ↔ b ≤ 0xCF#8) ∧ (20 ≤ (decode .b b).column.toNat ↔ 0xD0#8 ≤ b ∧ b ≤ 0xFF#8)) ∧
  ByteTakes .b true 0x85#8 1 0x0#4 0x2#4 ∧ ByteTakes .b false 0x85#8 1 0xF#4 0xD#4

/-- The frame of all six commands (R80 and R90, "exactly one bounded mutation; no other global state changes"):
only the entry of the command's column can change, in it only the bits of the LED named, and nothing else of the
state: no other entry, CURSOR, COUNTDOWN, ROW_OUT, COL_OUT, parameter, input or trace. A bit that is the LED's
takes what the command says of it. Rests on D3, D4 and D6. -/
def Obligations.CommandsWriteOnlyTheirLed : Prop :=
  ∀ (i : Instr) (s : State), ∃ t, exec i s = .next t ∧ t = { s with rss := t.rss } ∧
    ∀ (d : Column) (r : Row),
      (memRead t d).getLsbD r.val =
        match (if d.val = i.column.toNat then i.says r else none) with
        | some on => (on == s.cfg.rowOnLevel)
        | none => (memRead s d).getLsbD r.val

/-- A command for column 20 to 31 changes no entry, no register and no output (R43, R123): the policy is the spec's
decision D6. -/
def Obligations.OutOfGridCommandIsDiscarded : Prop :=
  ∀ (i : Instr) (s : State), 20 ≤ i.column.toNat → exec i s = .next s

/-- Idempotence (R50; R85 and R93 are the spec's derivations): the same command twice is the same as once. -/
def Obligations.CommandTwiceIsCommandOnce : Prop :=
  ∀ (i : Instr) (s t : State), exec i s = .next t → exec i t = .next t

/-- Last write wins (R85, R93, the spec's derivations): of two commands of one variant to the same LED, the later
one alone decides. -/
def Obligations.LastCommandToAnLedWins : Prop :=
  ∀ (i j : Instr) (s t : State), i.variant = j.variant → i.ledAddress = j.ledAddress →
    exec i s = .next t → exec j t = exec j s

/-- Commands of one variant to different LEDs commute (R85, R93, the spec's derivations). -/
def Obligations.CommandsToDifferentLedsCommute : Prop :=
  ∀ (i j : Instr) (s : State), i.variant = j.variant → i.ledAddress ≠ j.ledAddress →
    ∃ t u w, exec i s = .next t ∧ exec j t = .next w ∧ exec j s = .next u ∧ exec i u = .next w

/-- LEDB.ON then LEDB.OFF at the same (c, r), on an entry whose bit r was off, restores the whole state (R93, the
spec's derivation; the source's scenario S1). -/
def Obligations.OnThenOffRestoresADarkLed : Prop :=
  ∀ (s t : State) (c : BitVec 5) (r : BitVec 2),
    (∀ k : Column, k.val = c.toNat → (memRead s k).getLsbD r.toNat = !s.cfg.rowOnLevel) →
    exec (.ledbOn c r) s = .next t → exec (.ledbOff c r) t = .next s

/-- "Any bit pattern is legal state" (R21): in both variants, from every state, received bytes bring any entry to any
of its 16 values. That commands reach them all is a consequence, not R21's words. -/
def Obligations.AnyEntryValueIsReachable : Prop :=
  ∀ (s : State) (k : Column) (value : Entry), ∃ (bytes : List Byte) (t : State),
    process (bytes.map fun b => Event.rx b false) s = .next t ∧ memRead t k = value

/-! ### The Scan Engine -/

/-- R101, step 1: the first thing a tick does, in every state, is to put ALL_OFF on ROW_OUT while COL_OUT still
holds the previous column's pattern. -/
def Obligations.TickBlanksFirst : Prop :=
  ∀ (s : State) (rest : List Event), Next .tick rest s →
    ∃ t more, step s = .next t ∧ t.trace = s.trace ++ (allOff s.cfg.rowOnLevel, s.colOut) :: more

/-- R102, step 2: CURSOR goes up by one and from 19 to 0, and nothing else than a tick alters the order: a step that
takes neither a tick nor a reset leaves CURSOR as it was. -/
def Obligations.TickAdvancesCursorCyclically : Prop :=
  (∀ (s : State) (rest : List Event), Next .tick rest s →
    ∃ t, step s = .next t ∧ t.cursor.val = (s.cursor.val + 1) % 20 ∧
      (s.cursor.val < 19 → t.cursor.val = s.cursor.val + 1) ∧ (s.cursor.val = 19 → t.cursor.val = 0)) ∧
  (∀ s t : State, step s = .next t → s.input.head? ≠ some .tick → s.input.head? ≠ some .reset → t.cursor = s.cursor)

/-- R103, step 3: COL_OUT takes the new cursor's pattern, exactly that line active (0) and the other 19 inactive,
while ROW_OUT is still ALL_OFF; the tick leaves COL_OUT so. -/
def Obligations.TickSelectsExactlyOneColumn : Prop :=
  ∀ (s : State) (rest : List Event), Next .tick rest s →
    ∃ t first more, step s = .next t ∧ t.trace = s.trace ++ first :: (allOff s.cfg.rowOnLevel, t.colOut) :: more ∧
      t.colOut = colTab t.cursor ∧ ∀ c : Column, t.colOut.getLsbD c.val = !decide (c = t.cursor)

/-- R105, step 5, with the store untouched: while COUNTDOWN is positive before the tick the rows end at ALL_ON and
COUNTDOWN goes down by one; at zero it stays zero and the tick renders the stored entry. -/
def Obligations.SelfTestOverridesRowsAndCountsDown : Prop :=
  ∀ (s : State) (rest : List Event), Next .tick rest s →
    ∃ t, step s = .next t ∧ t.rss = s.rss ∧
      (0 < s.countdown.toNat → t.rowOut = allOn s.cfg.rowOnLevel ∧ t.countdown.toNat + 1 = s.countdown.toNat) ∧
      (s.countdown = 0#16 → t.rowOut = memRead s t.cursor ∧ t.countdown = 0#16)

/-- The whole tick (R106; that each latch write is a pair of the trace is decision D18, the transient of step 4
decision D12, the identity at step 4 decision D3): the exact next state, so also its frame. -/
def Obligations.TickGivesTheNormativeState : Prop :=
  ∀ (s : State) (rest : List Event), Next .tick rest s →
    let off := allOff s.cfg.rowOnLevel
    let k := nextColumn s.cursor
    let open_ := 0 < s.countdown.toNat
    ∃ t, step s = .next t ∧
      (open_ → t = { s with
          input := rest, cursor := k, colOut := colTab k, rowOut := allOn s.cfg.rowOnLevel,
          countdown := s.countdown - 1#16,
          trace := s.trace ++ [(off, s.colOut), (off, colTab k), (memRead s k, colTab k),
            (allOn s.cfg.rowOnLevel, colTab k)] }) ∧
      (¬ open_ → t = { s with
          input := rest, cursor := k, colOut := colTab k, rowOut := memRead s k,
          trace := s.trace ++ [(off, s.colOut), (off, colTab k), (memRead s k, colTab k)] })

/-- The merged implementation of R107 (decision D12): its tick's trace is a sub-trace of the literal one, with the same
first and last pairs; the literal trace has exactly one pair more in the self-test window and none outside it. -/
def Obligations.MergedTickIsASubTrace : Prop :=
  ∀ (s : State) (rest : List Event), Next .tick rest s →
    ∃ t pairs, step s = .next t ∧ t.trace = s.trace ++ pairs ∧
      (mergedTickTrace s).Sublist pairs ∧ pairs.head? = (mergedTickTrace s).head? ∧
      pairs.getLast? = some (latches t) ∧ (mergedTickTrace s).getLast? = some (latches t) ∧
      pairs.length = (mergedTickTrace s).length + (if s.countdown = 0#16 then 0 else 1)

/-- R23: the store is mutated exclusively by the Command Decoder (a reset initialises it, R35). If a step that is not
a reset changes an entry, it took a byte without error whose command is for that entry's column; a tick, in the
self-test window too, changes none, and there it overrides ROW_OUT only. -/
def Obligations.OnlyTheDecoderMutatesTheStore : Prop :=
  (∀ (s t : State) (c : Column), step s = .next t → memRead t c ≠ memRead s c → s.input.head? ≠ some .reset →
    ∃ b, s.input.head? = some (.rx b false) ∧ (decode s.cfg.variant b).column.toNat = c.val) ∧
  (∀ (s : State) (rest : List Event), Next .tick rest s → ∃ t, step s = .next t ∧ t.rss = s.rss ∧
    (0 < s.countdown.toNat → t.rowOut = allOn s.cfg.rowOnLevel))

/-! ### Reset -/

/-- R140 with R35: whatever the state, the Reset event gives, in one step, every entry ALL_OFF, CURSOR = CURSOR_RESET,
COUNTDOWN = SELFTEST_TICKS (1000 in the standard configuration), ROW_OUT = ALL_OFF, COL_OUT = 0xFFFFF, and leaves the
parameters alone. -/
def Obligations.ResetEventTakesTheResetState : Prop :=
  (∀ (s : State) (rest : List Event), Next .reset rest s →
    ∃ t, step s = .next t ∧ (∀ c : Column, memRead t c = allOff s.cfg.rowOnLevel) ∧
      t.cursor = s.cfg.cursorReset ∧ t.countdown = s.cfg.selftestTicks ∧ t.rowOut = allOff s.cfg.rowOnLevel ∧
      t.colOut = 0xFFFFF#20 ∧ t.cfg = s.cfg) ∧
  Config.standard.selftestTicks = 1000#16

/-- The interface's reset state is the reset state of the standard configuration: level 0, CURSOR_RESET 0 and 1000
ticks, the values R10 names "if one value is needed"; that it is Variant A is the model's choice (log entry 2). -/
def Obligations.ResetConstantHoldsTheStandardValues : Prop :=
  (∀ c : Column, memRead State.reset c = 0xF#4) ∧ State.reset.cursor = 0 ∧ State.reset.countdown = 1000#16 ∧
  State.reset.rowOut = 0xF#4 ∧ State.reset.colOut = 0xFFFFF#20 ∧ State.reset.input = [] ∧ State.reset.trace = [] ∧
  State.reset.cfg = Config.standard

/-- Every reset is the same, and wins over what coincides with it (R142, R143, decision D16): after any events, and
for every order in which a moment that includes a reset may be taken, the block is in the reset state of its
parameters. The clearing of the trace is the model's choice (log entry 4). -/
def Obligations.EveryResetIsTheSame : Prop :=
  ∀ (es : List Event) (s : State) (x : Arrivals), x.reset = true → ∀ order ∈ x.orders,
    process (es ++ order) s = .next { State.resetOf s.cfg with input := s.input }

/-! ### The whole machine -/

/-- The invariant holds after reset, under every configuration. -/
def Obligations.InvariantHoldsAtReset : Prop :=
  (∀ cfg : Config, Inv (State.resetOf cfg)) ∧ Inv State.reset

/-- Every step keeps the invariant: COUNTDOWN stays within SELFTEST_TICKS, the selected column is CURSOR's once a
tick has run, and the trace never changes column with the rows driven (R33 and R111, the spec's derivations). -/
def Obligations.EveryStepKeepsTheInvariant : Prop :=
  ∀ s t : State, Inv s → step s = .next t → Inv t

/-- At most one column line is active, so every driven LED stands in the column CURSOR; with the rows blank no LED is
driven (R109 and R33 c, the spec's derivations). -/
def Obligations.DrivenLedsStandInOneColumn : Prop :=
  (∀ s : State, Inv s → (∀ c d : Column, s.colOut.getLsbD c.val = false → s.colOut.getLsbD d.val = false → c = d) ∧
    ∀ (c : Column) (r : Row), lit s c r = true → c = s.cursor) ∧
  (∀ s : State, s.rowOut = allOff s.cfg.rowOnLevel → ∀ (c : Column) (r : Row), lit s c r = false)

/-- R112: with SELFTEST_TICKS = 1000, ticks 1 to 1000 after reset render ALL_ON and leave COUNTDOWN at 999 down to 0,
whatever commands are received; from tick 1001 on each tick renders the stored entry of its column; each tick
selects one column only. -/
def Obligations.SelfTestWindowIsThousandTicks : Prop :=
  ∀ (cfg : Config) (es : List Event), cfg.selftestTicks = 1000#16 → noReset es = true →
    ∃ t, process (es ++ [.tick]) (State.resetOf cfg) = .next t ∧
      (ticksIn es + 1 ≤ 1000 → t.rowOut = allOn cfg.rowOnLevel ∧ t.countdown.toNat + (ticksIn es + 1) = 1000) ∧
      (1001 ≤ ticksIn es + 1 → t.rowOut = memRead t t.cursor ∧ t.countdown = 0#16) ∧
      ∀ c : Column, t.colOut.getLsbD c.val = !decide (c = t.cursor)

/-- The counters n ticks after reset, for every configuration and whatever bytes come between (R33 e and f, R108, R141,
the spec's derivations): CURSOR = (CURSOR_RESET + n) mod 20, COUNTDOWN = max(0, SELFTEST_TICKS − n); before the first
tick nothing is selected and no LED is driven. -/
def Obligations.CountersAfterNTicks : Prop :=
  ∀ (cfg : Config) (es : List Event), noReset es = true →
    ∃ t, process es (State.resetOf cfg) = .next t ∧
      t.cursor.val = (cfg.cursorReset.val + ticksIn es) % 20 ∧
      t.countdown.toNat = cfg.selftestTicks.toNat - ticksIn es ∧
      (0 < ticksIn es → t.colOut = colTab t.cursor) ∧
      (ticksIn es = 0 → t.colOut = 0xFFFFF#20 ∧ ∀ (c : Column) (r : Row), lit t c r = false)

/-- Refresh coverage (R110, the spec's derivation): over any 20 consecutive ticks, whatever bytes come between and
whether or not the window is open, every column is selected exactly once, in cyclic order. -/
def Obligations.TwentyTicksRenderEveryColumnOnce : Prop :=
  ∀ (s : State) (es : List Event), noReset es = true → ticksIn es = 20 →
    (renderedValues es s).map Prod.snd =
      (List.range 20).map (fun n => colTab (Nat.iterate nextColumn (n + 1) s.cursor)) ∧
    ∀ c : Column, ((renderedValues es s).map Prod.snd).count (colTab c) = 1

/-- Single-writer determinism (R56, the spec's derivation): the store after any sequence is the store after its
accepted commands alone, in their order; ticks and bytes in error can be left out. -/
def Obligations.StoreDependsOnCommandsOnly : Prop :=
  ∀ (es : List Event) (s : State), noReset es = true →
    ∃ t u, process es s = .next t ∧
      process (es.filter fun e => (eventCommand s.cfg.variant e).isSome) s = .next u ∧ t.rss = u.rss

/-- Independence from commands (R114, the spec's derivation): two sequences with the same number of ticks, from states
that agree on the scan registers, leave CURSOR, COUNTDOWN and COL_OUT the same, whatever bytes were received and
whatever the stores hold. -/
def Obligations.ScanIsIndependentOfCommands : Prop :=
  ∀ (es es' : List Event) (s s' : State), noReset es = true → noReset es' = true → ticksIn es = ticksIn es' →
    s.cursor = s'.cursor → s.countdown = s'.countdown → s.colOut = s'.colOut →
    ∃ t t', process es s = .next t ∧ process es' s' = .next t' ∧
      t.cursor = t'.cursor ∧ t.countdown = t'.countdown ∧ t.colOut = t'.colOut

/-- The accepted race (R53, with the two orders of R125, decision D11), outside the self-test window: a tick that
coincides with a command for the column it renders renders the new entry in one order and the old one in the other;
both end with the same store, cursor and column; and after the stale order the column is not rendered again for 19
ticks and the 20th renders the new entry, unless a later command was for that column. -/
def Obligations.CoincidentTickAndByteRace : Prop :=
  ∀ (s : State) (b : Byte), s.countdown = 0#16 →
    commandsColumn s.cfg.variant (nextColumn s.cursor) (.rx b false) = true →
    let k := nextColumn s.cursor
    let x : Arrivals := { reset := false, tick := true, rx := some (b, false) }
    ∃ t u, x.orders = [[.rx b false, .tick], [.tick, .rx b false]] ∧
      process [.rx b false, .tick] s = .next t ∧ process [.tick, .rx b false] s = .next u ∧
      t.colOut = colTab k ∧ u.colOut = colTab k ∧ t.rss = u.rss ∧ t.cursor = u.cursor ∧
      t.rowOut = memRead t k ∧ u.rowOut = memRead s k ∧
      ∀ es, noReset es = true → Untouched s.cfg.variant k es →
        (0 < ticksIn es → ticksIn es < 20 → ∃ w, process es u = .next w ∧ w.cursor ≠ k) ∧
        (ticksIn es = 19 → ∃ w, process (es ++ [.tick]) u = .next w ∧ w.colOut = colTab k ∧ w.rowOut = memRead t k)

/-- Event-level atomicity loses no finer interleaving (R52, the spec's derivation; R125, decision D11): a command that
lands between any two of the five steps of a tick gives exactly the state of one of the two orders, command first
if it lands before step 4 reads the entry, tick first otherwise. -/
def Obligations.CommandInsideATickIsOneOfTheTwoOrders : Prop :=
  ∀ (i : Instr) (s : State) (k : Nat),
    ∃ t, exec i (doSteps (tickSteps.take k) s) = .next t ∧
      (k ≤ 3 → ∃ u, exec i s = .next u ∧ doSteps (tickSteps.drop k) t = onTick u) ∧
      (4 ≤ k → exec i (onTick s) = .next (doSteps (tickSteps.drop k) t))

/-- End to end (R54, R109 and the commands' rules; the spec's derivations, with D3 and D4): after any accepted command,
once a tick outside the self-test window renders its column with no later command for it, each row of the LED is
driven exactly as the command said, whatever ROW_ON_LEVEL is; and such a tick comes within 20 ticks. -/
def Obligations.CommandedLedIsDrivenAtItsNextRendering : Prop :=
  ∀ (i : Instr) (s t : State) (k : Column), exec i s = .next t → s.countdown = 0#16 → k.val = i.column.toNat →
    (∀ es, noReset es = true → Untouched s.cfg.variant k es →
      ∀ w, process (es ++ [.tick]) t = .next w → w.cursor = k →
        ∀ r on, i.says r = some on → lit w k r = on) ∧
    ∃ n, n < 20 ∧ ∀ es, noReset es = true → ticksIn es = n →
      ∃ w, process (es ++ [.tick]) t = .next w ∧ w.cursor = k

/-- The self-test window (R128, R129; the spec's count is decision D8): entered by reset only, left by counting ticks
only (a reset with SELFTEST_TICKS = 0 apart), no restriction on the decoder, and the tick differs in step 5 only. -/
def Obligations.SelfTestWindowIsEnteredByResetOnly : Prop :=
  (∀ s t : State, step s = .next t → s.countdown.toNat < t.countdown.toNat → s.input.head? = some .reset) ∧
  (∀ s t : State, step s = .next t → t.countdown.toNat < s.countdown.toNat → s.input.head? ≠ some .reset →
    s.input.head? = some .tick ∧ t.countdown.toNat + 1 = s.countdown.toNat) ∧
  (∀ (i : Instr) (s t : State) (n : BitVec 16), exec i s = .next t →
    exec i { s with countdown := n } = .next { t with countdown := n }) ∧
  (∀ (s : State) (rest : List Event), Next .tick rest s →
    ∃ t u, step s = .next t ∧ step { s with countdown := 0#16 } = .next u ∧
      t.rss = u.rss ∧ t.cursor = u.cursor ∧ t.colOut = u.colOut ∧ u.trace <+: t.trace)

/-- PINMAP is injective (R26, decision D10; that it is a wiring is DEDUCED, log entry 9): a complete wiring brings every
column line out, so the physical groups determine COL_OUT. -/
def Obligations.CompletePinMapIsInjective : Prop :=
  ∀ (m : PinMap) (x y : ColLines), pinMapComplete m = true → pinOutputs m x = pinOutputs m y → x = y
end

