-- ==== Sys2Proof/Laws/Levels.lean ====
section
/-! SUPPORT. The levels, bit by bit: what the whole-column patterns, the Column Drive Table and a command's stored bits
are on each line. -/

namespace Sys2Proof.Machine

theorem allOff_bit (level : Bool) (r : Row) : (allOff level).getLsbD r.val = !level := by
  revert level r; decide

theorem allOn_bit (level : Bool) (r : Row) : (allOn level).getLsbD r.val = level := by
  revert level r; decide

/-- ALL_ON = ~ALL_OFF (R10). -/
theorem allOn_eq_not_allOff (level : Bool) : allOn level = ~~~allOff level := by
  revert level; decide

/-- The table is one-cold (R25). -/
theorem colTab_bit (c d : Column) : (colTab c).getLsbD d.val = !decide (d = c) := by
  revert c d; decide

theorem noColumn_bit (c : Column) : noColumn.getLsbD c.val = true := by
  revert c; decide

theorem colTab_injective {c d : Column} (h : colTab c = colTab d) : c = d := by
  have hb := colTab_bit d c
  rw [← h, colTab_bit] at hb
  simpa using hb.symm

theorem nextColumn_val (c : Column) : (nextColumn c).val = (c.val + 1) % 20 := rfl

/-- The rows of a group after a Variant A write: the group's two rows take the state bits through the polarity, the other
two keep theirs (R80). -/
theorem groupWrite_bit (level : Bool) (e : Entry) (st : BitVec 2) (g : BitVec 1) (r : Row) :
    ((e &&& ~~~groupMask g) ||| groupValue level st g).getLsbD r.val =
      if r.val / 2 = g.toNat then st.getLsbD (r.val % 2) == level else e.getLsbD r.val := by
  revert level e st g r; decide

/-- The rows after a Variant B write: one row takes the state bit through the polarity (R90). -/
theorem rowWrite_bit (level : Bool) (e : Entry) (st : BitVec 1) (w : BitVec 2) (r : Row) :
    ((e &&& ~~~rowMask w) ||| rowValue level st w).getLsbD r.val =
      if r.val = w.toNat then st.getLsbD 0 == level else e.getLsbD r.val := by
  revert level e st w r; decide

/-- Two entries with the same bits on all four rows are the same. -/
theorem entry_ext {e f : Entry} (h : ∀ r : Row, e.getLsbD r.val = f.getLsbD r.val) : e = f :=
  BitVec.eq_of_getLsbD_eq fun i hi => h ⟨i, hi⟩

end Sys2Proof.Machine
end

