-- ==== Sys2Proof/Laws/State.lean ====
section
/-! SUPPORT. One lemma per field per update of the state, true by rfl. -/

namespace Sys2Proof.Machine

@[simp] theorem memWrite_cfg (c : Column) (v : Entry) (s : State) : (memWrite c v s).cfg = s.cfg := rfl
@[simp] theorem memWrite_rss (c : Column) (v : Entry) (s : State) : (memWrite c v s).rss = s.rss.set c.val v := rfl
@[simp] theorem memWrite_cursor (c : Column) (v : Entry) (s : State) : (memWrite c v s).cursor = s.cursor := rfl
@[simp] theorem memWrite_countdown (c : Column) (v : Entry) (s : State) : (memWrite c v s).countdown = s.countdown := rfl
@[simp] theorem memWrite_rowOut (c : Column) (v : Entry) (s : State) : (memWrite c v s).rowOut = s.rowOut := rfl
@[simp] theorem memWrite_colOut (c : Column) (v : Entry) (s : State) : (memWrite c v s).colOut = s.colOut := rfl
@[simp] theorem memWrite_input (c : Column) (v : Entry) (s : State) : (memWrite c v s).input = s.input := rfl
@[simp] theorem memWrite_trace (c : Column) (v : Entry) (s : State) : (memWrite c v s).trace = s.trace := rfl

@[simp] theorem emit_cfg (s : State) : (emit s).cfg = s.cfg := rfl
@[simp] theorem emit_rss (s : State) : (emit s).rss = s.rss := rfl
@[simp] theorem emit_cursor (s : State) : (emit s).cursor = s.cursor := rfl
@[simp] theorem emit_countdown (s : State) : (emit s).countdown = s.countdown := rfl
@[simp] theorem emit_rowOut (s : State) : (emit s).rowOut = s.rowOut := rfl
@[simp] theorem emit_colOut (s : State) : (emit s).colOut = s.colOut := rfl
@[simp] theorem emit_input (s : State) : (emit s).input = s.input := rfl
@[simp] theorem emit_trace (s : State) : (emit s).trace = s.trace ++ [(s.rowOut, s.colOut)] := rfl

@[simp] theorem driveRows_cfg (v : Entry) (s : State) : (driveRows v s).cfg = s.cfg := rfl
@[simp] theorem driveRows_rss (v : Entry) (s : State) : (driveRows v s).rss = s.rss := rfl
@[simp] theorem driveRows_cursor (v : Entry) (s : State) : (driveRows v s).cursor = s.cursor := rfl
@[simp] theorem driveRows_countdown (v : Entry) (s : State) : (driveRows v s).countdown = s.countdown := rfl
@[simp] theorem driveRows_rowOut (v : Entry) (s : State) : (driveRows v s).rowOut = v := rfl
@[simp] theorem driveRows_colOut (v : Entry) (s : State) : (driveRows v s).colOut = s.colOut := rfl
@[simp] theorem driveRows_input (v : Entry) (s : State) : (driveRows v s).input = s.input := rfl
@[simp] theorem driveRows_trace (v : Entry) (s : State) : (driveRows v s).trace = s.trace ++ [(v, s.colOut)] := rfl

@[simp] theorem selectColumns_cfg (v : ColLines) (s : State) : (selectColumns v s).cfg = s.cfg := rfl
@[simp] theorem selectColumns_rss (v : ColLines) (s : State) : (selectColumns v s).rss = s.rss := rfl
@[simp] theorem selectColumns_cursor (v : ColLines) (s : State) : (selectColumns v s).cursor = s.cursor := rfl
@[simp] theorem selectColumns_countdown (v : ColLines) (s : State) : (selectColumns v s).countdown = s.countdown := rfl
@[simp] theorem selectColumns_rowOut (v : ColLines) (s : State) : (selectColumns v s).rowOut = s.rowOut := rfl
@[simp] theorem selectColumns_colOut (v : ColLines) (s : State) : (selectColumns v s).colOut = v := rfl
@[simp] theorem selectColumns_input (v : ColLines) (s : State) : (selectColumns v s).input = s.input := rfl
@[simp] theorem selectColumns_trace (v : ColLines) (s : State) : (selectColumns v s).trace = s.trace ++ [(s.rowOut, v)] := rfl

@[simp] theorem setCursor_cfg (v : Column) (s : State) : (setCursor v s).cfg = s.cfg := rfl
@[simp] theorem setCursor_rss (v : Column) (s : State) : (setCursor v s).rss = s.rss := rfl
@[simp] theorem setCursor_cursor (v : Column) (s : State) : (setCursor v s).cursor = v := rfl
@[simp] theorem setCursor_countdown (v : Column) (s : State) : (setCursor v s).countdown = s.countdown := rfl
@[simp] theorem setCursor_rowOut (v : Column) (s : State) : (setCursor v s).rowOut = s.rowOut := rfl
@[simp] theorem setCursor_colOut (v : Column) (s : State) : (setCursor v s).colOut = s.colOut := rfl
@[simp] theorem setCursor_input (v : Column) (s : State) : (setCursor v s).input = s.input := rfl
@[simp] theorem setCursor_trace (v : Column) (s : State) : (setCursor v s).trace = s.trace := rfl

@[simp] theorem setCountdown_cfg (v : BitVec 16) (s : State) : (setCountdown v s).cfg = s.cfg := rfl
@[simp] theorem setCountdown_rss (v : BitVec 16) (s : State) : (setCountdown v s).rss = s.rss := rfl
@[simp] theorem setCountdown_cursor (v : BitVec 16) (s : State) : (setCountdown v s).cursor = s.cursor := rfl
@[simp] theorem setCountdown_countdown (v : BitVec 16) (s : State) : (setCountdown v s).countdown = v := rfl
@[simp] theorem setCountdown_rowOut (v : BitVec 16) (s : State) : (setCountdown v s).rowOut = s.rowOut := rfl
@[simp] theorem setCountdown_colOut (v : BitVec 16) (s : State) : (setCountdown v s).colOut = s.colOut := rfl
@[simp] theorem setCountdown_input (v : BitVec 16) (s : State) : (setCountdown v s).input = s.input := rfl
@[simp] theorem setCountdown_trace (v : BitVec 16) (s : State) : (setCountdown v s).trace = s.trace := rfl

@[simp] theorem takeReset_cfg (s : State) : (takeReset s).cfg = s.cfg := rfl
@[simp] theorem takeReset_rss (s : State) : (takeReset s).rss = Vector.replicate 20 (allOff s.cfg.rowOnLevel) := rfl
@[simp] theorem takeReset_cursor (s : State) : (takeReset s).cursor = s.cfg.cursorReset := rfl
@[simp] theorem takeReset_countdown (s : State) : (takeReset s).countdown = s.cfg.selftestTicks := rfl
@[simp] theorem takeReset_rowOut (s : State) : (takeReset s).rowOut = allOff s.cfg.rowOnLevel := rfl
@[simp] theorem takeReset_colOut (s : State) : (takeReset s).colOut = noColumn := rfl
@[simp] theorem takeReset_input (s : State) : (takeReset s).input = s.input := rfl
@[simp] theorem takeReset_trace (s : State) : (takeReset s).trace = [] := rfl

@[simp] theorem resetOf_cfg (cfg : Config) : (State.resetOf cfg).cfg = cfg := rfl
@[simp] theorem resetOf_rss (cfg : Config) : (State.resetOf cfg).rss = Vector.replicate 20 (allOff cfg.rowOnLevel) := rfl
@[simp] theorem resetOf_cursor (cfg : Config) : (State.resetOf cfg).cursor = cfg.cursorReset := rfl
@[simp] theorem resetOf_countdown (cfg : Config) : (State.resetOf cfg).countdown = cfg.selftestTicks := rfl
@[simp] theorem resetOf_rowOut (cfg : Config) : (State.resetOf cfg).rowOut = allOff cfg.rowOnLevel := rfl
@[simp] theorem resetOf_colOut (cfg : Config) : (State.resetOf cfg).colOut = noColumn := rfl
@[simp] theorem resetOf_input (cfg : Config) : (State.resetOf cfg).input = [] := rfl
@[simp] theorem resetOf_trace (cfg : Config) : (State.resetOf cfg).trace = [] := rfl

/-- Writing the store reads back: the written entry gives the value, every other entry what it gave. -/
@[simp] theorem memRead_memWrite (c d : Column) (v : Entry) (s : State) :
    memRead (memWrite c v s) d = if d = c then v else memRead s d := by
  unfold memRead
  rw [memWrite_rss, Vector.getElem_set]
  by_cases h : d = c
  · simp [h]
  · have h' : ¬ c.val = d.val := fun e => h (Fin.ext e.symm)
    simp [h, h']

/-- Only the store is read. -/
theorem memRead_congr {s t : State} (h : s.rss = t.rss) (c : Column) : memRead s c = memRead t c := by
  unfold memRead; rw [h]

/-- Two states with the same entries have the same store. -/
theorem rss_ext {s t : State} (h : ∀ c, memRead s c = memRead t c) : s.rss = t.rss :=
  Vector.ext fun i hi => h ⟨i, hi⟩

@[simp] theorem memRead_takeReset (s : State) (c : Column) : memRead (takeReset s) c = allOff s.cfg.rowOnLevel := by
  unfold memRead
  rw [takeReset_rss, Vector.getElem_replicate]

@[simp] theorem memRead_resetOf (cfg : Config) (c : Column) : memRead (State.resetOf cfg) c = allOff cfg.rowOnLevel := by
  unfold memRead State.resetOf
  simp only [Vector.getElem_replicate]

/-- Writing an entry's own value changes nothing. -/
theorem memWrite_self (c : Column) (s : State) : memWrite c (memRead s c) s = s := by
  have h : s.rss.set c.val (memRead s c) = s.rss :=
    rss_ext (s := memWrite c (memRead s c) s) fun d => by
      rw [memRead_memWrite]
      by_cases e : d = c
      · rw [if_pos e, e]
      · rw [if_neg e]
  unfold memWrite
  rw [h]

end Sys2Proof.Machine
end

