-- ==== Sys2Proof/Laws/Ops.lean ====
section
/-! SUPPORT. One lemma per shared operation, which says everything the operation can do. -/

namespace Sys2Proof.Machine

theorem columnEntry_of_lt {c : BitVec 5} {k : Column} (h : k.val = c.toNat) : columnEntry c = some k := by
  have hlt : c.toNat < 20 := h ▸ k.isLt
  unfold columnEntry
  rw [dif_pos hlt]
  exact congrArg some (Fin.ext h.symm)

theorem columnEntry_of_ge {c : BitVec 5} (h : 20 ≤ c.toNat) : columnEntry c = none := by
  unfold columnEntry
  exact dif_neg (Nat.not_lt.mpr h)

/-- A decoded column either names one entry or is 20 or more. -/
theorem columnEntry_cases (c : BitVec 5) :
    (∃ k : Column, k.val = c.toNat ∧ columnEntry c = some k) ∨ (20 ≤ c.toNat ∧ columnEntry c = none) := by
  by_cases h : c.toNat < 20
  · exact .inl ⟨⟨c.toNat, h⟩, rfl, columnEntry_of_lt rfl⟩
  · have h' : 20 ≤ c.toNat := Nat.not_lt.mp h
    exact .inr ⟨h', columnEntry_of_ge h'⟩

/-- Out of the grid, the read-modify-write is a discard. -/
theorem readModifyWrite_discards {c : BitVec 5} (h : 20 ≤ c.toNat) (m v : Entry) (s : State) :
    readModifyWrite c m v s = s := by
  unfold readModifyWrite
  rw [columnEntry_of_ge h]
  rfl

/-- In the grid, it writes the one entry, with the bits outside the mask as they were. -/
theorem readModifyWrite_writes {c : BitVec 5} {k : Column} (h : k.val = c.toNat) (m v : Entry) (s : State) :
    readModifyWrite c m v s = memWrite k ((memRead s k &&& ~~~m) ||| v) s := by
  unfold readModifyWrite
  rw [columnEntry_of_lt h]

/-- The frame of the read-modify-write: nothing but the store, and in it nothing but the column's entry. -/
theorem readModifyWrite_frame (c : BitVec 5) (m v : Entry) (s : State) :
    readModifyWrite c m v s = { s with rss := (readModifyWrite c m v s).rss } ∧
      ∀ d : Column, d.val ≠ c.toNat → memRead (readModifyWrite c m v s) d = memRead s d := by
  obtain ⟨k, hk, -⟩ | ⟨hc, -⟩ := columnEntry_cases c
  · rw [readModifyWrite_writes hk]
    refine ⟨rfl, fun d hd => ?_⟩
    have hdk : d ≠ k := fun e => hd (e ▸ hk)
    rw [memRead_memWrite, if_neg hdk]
  · rw [readModifyWrite_discards hc]
    exact ⟨rfl, fun _ _ => rfl⟩

/-- The window is open exactly when COUNTDOWN is not zero. -/
theorem selfTestOpen_iff (s : State) : selfTestOpen s = true ↔ s.countdown ≠ 0#16 := by
  unfold selfTestOpen
  rw [decide_eq_true_iff]
  constructor
  · intro h e; rw [e] at h; exact absurd h (by decide)
  · intro h
    rw [BitVec.lt_def]
    exact Nat.pos_of_ne_zero fun e => h (BitVec.eq_of_toNat_eq e)

/-- A tick in the self-test window: the whole next state (R106). -/
theorem onTick_open {s : State} (h : s.countdown ≠ 0#16) :
    onTick s = { s with
      cursor := nextColumn s.cursor
      colOut := colTab (nextColumn s.cursor)
      rowOut := allOn s.cfg.rowOnLevel
      countdown := s.countdown - 1#16
      trace := s.trace ++ [(allOff s.cfg.rowOnLevel, s.colOut), (allOff s.cfg.rowOnLevel, colTab (nextColumn s.cursor)),
        (memRead s (nextColumn s.cursor), colTab (nextColumn s.cursor)),
        (allOn s.cfg.rowOnLevel, colTab (nextColumn s.cursor))] } := by
  have h' : selfTestOpen (tickDrive (tickSelect (tickAdvance (tickBlank s)))) = true := (selfTestOpen_iff _).mpr h
  unfold onTick tickSelfTest
  rw [if_pos h']
  simp [tickDrive, tickSelect, tickAdvance, tickBlank, setCountdown, driveRows, selectColumns, setCursor, emit, memRead]

/-- A tick with the window closed: the whole next state (R106). -/
theorem onTick_closed {s : State} (h : s.countdown = 0#16) :
    onTick s = { s with
      cursor := nextColumn s.cursor
      colOut := colTab (nextColumn s.cursor)
      rowOut := memRead s (nextColumn s.cursor)
      trace := s.trace ++ [(allOff s.cfg.rowOnLevel, s.colOut), (allOff s.cfg.rowOnLevel, colTab (nextColumn s.cursor)),
        (memRead s (nextColumn s.cursor), colTab (nextColumn s.cursor))] } := by
  have h' : ¬ selfTestOpen (tickDrive (tickSelect (tickAdvance (tickBlank s)))) = true :=
    fun e => (selfTestOpen_iff _).mp e h
  unfold onTick tickSelfTest
  rw [if_neg h']
  simp [tickDrive, tickSelect, tickAdvance, tickBlank, driveRows, selectColumns, setCursor, emit, memRead]

/-- The fields a tick leaves, and those it sets without looking at the window. -/
theorem onTick_common (s : State) :
    (onTick s).cfg = s.cfg ∧ (onTick s).rss = s.rss ∧ (onTick s).input = s.input ∧
      (onTick s).cursor = nextColumn s.cursor ∧ (onTick s).colOut = colTab (nextColumn s.cursor) := by
  by_cases h : s.countdown = 0#16
  · rw [onTick_closed h]; exact ⟨rfl, rfl, rfl, rfl, rfl⟩
  · rw [onTick_open h]; exact ⟨rfl, rfl, rfl, rfl, rfl⟩

end Sys2Proof.Machine
end

