-- ==== Sys2Proof/Laws/PerInstr.lean ====
section
/-! SUPPORT. A statement made of every instruction, one lemma per constructor: its encoding lies in its row of the opcode
table (`byte & mask = match`, R68). -/

namespace Sys2Proof.Laws.TableRow

def Statement (i : Instr) : Prop :=
  i.tableRow.variant = i.variant ∧ encode i &&& i.tableRow.mask = i.tableRow.matchBits

theorem ledaOff (c : BitVec 5) (g : BitVec 1) : Statement (.ledaOff c g) := by
  revert c g; unfold Statement; decide

theorem ledaPri (c : BitVec 5) (g : BitVec 1) : Statement (.ledaPri c g) := by
  revert c g; unfold Statement; decide

theorem ledaSec (c : BitVec 5) (g : BitVec 1) : Statement (.ledaSec c g) := by
  revert c g; unfold Statement; decide

theorem ledaBoth (c : BitVec 5) (g : BitVec 1) : Statement (.ledaBoth c g) := by
  revert c g; unfold Statement; decide

theorem ledbOff (c : BitVec 5) (r : BitVec 2) : Statement (.ledbOff c r) := by
  revert c r; unfold Statement; decide

theorem ledbOn (c : BitVec 5) (r : BitVec 2) : Statement (.ledbOn c r) := by
  revert c r; unfold Statement; decide

end Sys2Proof.Laws.TableRow
end

