-- ==== Sys2Proof/Laws/Run.lean ====
section
/-! SUPPORT. What a step and a run do, said once: a command is one write of the store, an event is never refused, and
a run over a sequence is its events one after the other. -/

namespace Sys2Proof.Machine

/-- What each command writes: its mask and value (R80, R90). -/
def commandMask : Instr → Entry
  | .ledaOff _ g => groupMask g
  | .ledaPri _ g => groupMask g
  | .ledaSec _ g => groupMask g
  | .ledaBoth _ g => groupMask g
  | .ledbOff _ r => rowMask r
  | .ledbOn _ r => rowMask r

def commandValue (level : Bool) : Instr → Entry
  | .ledaOff _ g => groupValue level 0b00#2 g
  | .ledaPri _ g => groupValue level 0b01#2 g
  | .ledaSec _ g => groupValue level 0b10#2 g
  | .ledaBoth _ g => groupValue level 0b11#2 g
  | .ledbOff _ r => rowValue level 0b0#1 r
  | .ledbOn _ r => rowValue level 0b1#1 r

/-- The state a command leaves. -/
def commandResult (i : Instr) (s : State) : State :=
  readModifyWrite i.column (commandMask i) (commandValue s.cfg.rowOnLevel i) s

/-- Every command completes, by one read-modify-write of its column's entry. -/
theorem exec_eq (i : Instr) (s : State) : exec i s = .next (commandResult i s) := by
  cases i <;> rfl

/-- A command changes nothing but the store, and there only its column's entry. -/
theorem commandResult_frame (i : Instr) (s : State) :
    commandResult i s = { s with rss := (commandResult i s).rss } ∧
      ∀ d : Column, d.val ≠ i.column.toNat → memRead (commandResult i s) d = memRead s d :=
  readModifyWrite_frame _ _ _ _

/-- The state an event leaves: the step of the transition system, as a total function. -/
def eventResult (e : Event) (s : State) : State :=
  match e with
  | .reset => takeReset s
  | .tick => onTick s
  | .rx b err => if err then s else commandResult (decode s.cfg.variant b) s

/-- Every event is handled, with a next state. -/
theorem handleEvent_eq (e : Event) (s : State) : handleEvent e s = .next (eventResult e s) := by
  cases e with
  | reset => rfl
  | tick => rfl
  | rx b err =>
    cases err
    · exact exec_eq _ _
    · rfl

theorem step_event {s : State} {e : Event} {rest : List Event} (h : s.input = e :: rest) :
    step s = .next (eventResult e { s with input := rest }) := by
  unfold step runNext takeEvent
  rw [h]
  exact handleEvent_eq _ _

theorem step_idle {s : State} (h : s.input = []) : step s = .next s := by
  unfold step runNext takeEvent
  rw [h]
  rfl

/-- Everything a step can do. -/
theorem step_cases {s t : State} (h : step s = .next t) :
    (s.input = [] ∧ t = s) ∨
      ∃ e rest, s.input = e :: rest ∧ t = eventResult e { s with input := rest } := by
  cases hin : s.input with
  | nil => rw [step_idle hin] at h; exact .inl ⟨rfl, by injection h with h; exact h.symm⟩
  | cons e rest =>
    rw [step_event hin] at h
    exact .inr ⟨e, rest, rfl, by injection h with h; exact h.symm⟩

@[simp] theorem eventResult_cfg (e : Event) (s : State) : (eventResult e s).cfg = s.cfg := by
  cases e with
  | reset => rfl
  | tick => exact (onTick_common s).1
  | rx b err =>
    cases err
    · change (commandResult _ s).cfg = s.cfg
      rw [(commandResult_frame _ s).1]
    · rfl

@[simp] theorem eventResult_input (e : Event) (s : State) : (eventResult e s).input = s.input := by
  cases e with
  | reset => rfl
  | tick => exact (onTick_common s).2.2.1
  | rx b err =>
    cases err
    · change (commandResult _ s).input = s.input
      rw [(commandResult_frame _ s).1]
    · rfl

/-- An event neither reads nor changes what is to come after it. -/
theorem eventResult_withInput (e : Event) (s : State) (rest : List Event) :
    eventResult e { s with input := rest } = { eventResult e s with input := rest } := by
  cases e with
  | reset => rfl
  | tick =>
    change onTick { s with input := rest } = { onTick s with input := rest }
    by_cases h : s.countdown = 0#16
    · rw [onTick_closed h, onTick_closed (s := { s with input := rest }) h]; rfl
    · rw [onTick_open h, onTick_open (s := { s with input := rest }) h]; rfl
  | rx b err =>
    cases err
    · change commandResult _ { s with input := rest } = { commandResult _ s with input := rest }
      unfold commandResult
      obtain ⟨k, hk, -⟩ | ⟨hc, -⟩ := columnEntry_cases (decode s.cfg.variant b).column
      · rw [readModifyWrite_writes hk, readModifyWrite_writes hk]; rfl
      · rw [readModifyWrite_discards hc, readModifyWrite_discards hc]
    · rfl

/-- The state an event sequence leaves. -/
def runResult (es : List Event) (s : State) : State := es.foldl (fun s e => eventResult e s) s

@[simp] theorem runResult_nil (s : State) : runResult [] s = s := rfl

@[simp] theorem runResult_cons (e : Event) (es : List Event) (s : State) :
    runResult (e :: es) s = runResult es (eventResult e s) := rfl

@[simp] theorem runResult_append (es fs : List Event) (s : State) :
    runResult (es ++ fs) s = runResult fs (runResult es s) := List.foldl_append

@[simp] theorem runResult_cfg (es : List Event) (s : State) : (runResult es s).cfg = s.cfg := by
  induction es generalizing s with
  | nil => rfl
  | cons e es ih => rw [runResult_cons, ih, eventResult_cfg]

@[simp] theorem runResult_input (es : List Event) (s : State) : (runResult es s).input = s.input := by
  induction es generalizing s with
  | nil => rfl
  | cons e es ih => rw [runResult_cons, ih, eventResult_input]

/-- A machine that goes on, run for one step more. -/
theorem coreRun_succ {M : Host.Core} {n : Nat} {s t : M.State} (h : M.step s = .next t) :
    M.run (n + 1) s = M.run n t := by
  simp only [Host.Core.run, h]

/-- Running the machine one step more. -/
theorem runFor_succ {n : Nat} {s t : State} (h : step s = .next t) : runFor (n + 1) s = runFor n t :=
  coreRun_succ (M := Sys2Proof.core) h

/-- A run over an event sequence is its events one after the other. -/
theorem process_eq (es : List Event) (s : State) : process es s = .next (runResult es s) := by
  suffices h : ∀ (es rest : List Event) (s : State), s.input = es ++ rest →
      runFor es.length s = .next (runResult es { s with input := rest }) by
    unfold process
    exact h es s.input _ rfl
  intro es
  induction es with
  | nil =>
    intro rest s hs
    obtain rfl : s.input = rest := hs
    rfl
  | cons e es ih =>
    intro rest s hs
    rw [List.length_cons, runFor_succ (step_event hs), ih rest _ (eventResult_input _ _)]
    rw [runResult_cons, eventResult_withInput e s rest]
    exact (congrArg (fun u : State => Host.Outcome.next (runResult es { u with input := rest }))
      (eventResult_withInput e s (es ++ rest))).trans rfl

end Sys2Proof.Machine
end

