-- ==== Sys2Proof/Tests/Slice0.lean ====
section
/-! SUPPORT. Tests: expected values come from `95_test_vectors.md` and the rules' worked examples; then, for every statement
with hypotheses, a witness that meets them. -/

open Sys2Proof Sys2Proof.Machine Sys2Proof.Claims

namespace Sys2Proof.Tests

/-- The reset state of a variant at a level, with these events to come. -/
def start (v : Variant) (level : Bool) (es : List Event) : State :=
  { State.resetOf { Config.standard with variant := v, rowOnLevel := level } with input := es }

/-- The same with the self-test window closed, the cursor at c and every entry e. -/
def running (v : Variant) (level : Bool) (c : Column) (e : Entry) (es : List Event) : State :=
  { start v level es with countdown := 0#16, cursor := c, rss := Vector.replicate 20 e, colOut := colTab c }

/-- The next state of an outcome that is one. -/
def nextOf (o : Host.Outcome State Fault Refusal) : Option State :=
  match o with
  | .next t => some t
  | .fault _ => none
  | .refused _ => none

/-- The entry c after one step. -/
def entryAfter (s : State) (c : Column) : Option Entry := (nextOf (step s)).map fun t => memRead t c

/-- The pairs one step appends to an empty trace. -/
def traceAfter (s : State) : Option (List LatchPair) := (nextOf (step s)).map State.trace

/-! ### WellFormed: the one check -/

theorem test_wellFormed_accepts : (Instr.ledaPri 31 1).wellFormed .a = true ∧ (Instr.ledbOn 31 3).wellFormed .b = true := by decide

theorem test_wellFormed_refuses_other_variant :
    (Instr.ledbOn 1 1).wellFormed .a = false ∧ (Instr.ledaPri 1 1).wellFormed .b = false := by decide

/-! ### Decode: one word per constructor, bit by bit from R68's encodings, and the refusals -/

theorem test_decode_ledaOff : decode .a 0b00000110#8 = .ledaOff 3 0 := by decide
theorem test_decode_ledaPri : decode .a 0b01000001#8 = .ledaPri 0 1 := by decide
theorem test_decode_ledaSec : decode .a 0b10000101#8 = .ledaSec 2 1 := by decide
theorem test_decode_ledaBoth : decode .a 0b11100111#8 = .ledaBoth 19 1 := by decide
theorem test_decode_ledbOff : decode .b 0b01001111#8 = .ledbOff 19 3 := by decide
theorem test_decode_ledbOn : decode .b 0b10000101#8 = .ledbOn 1 1 := by decide
theorem test_decode_no_byte : decodeBytes .b [] = .error .noByte := rfl
theorem test_decode_table_word : decodeTableWord 8 0x85 = some (.ledaSec 2 1) := by decide

/-! ### Commands: section 2 and 3 of the vectors, corner cases -/

theorem test_ledaOff_2_1_level0 : entryAfter (running .a false 0 0xA#4 [.rx 0x05#8 false]) 2 = some 0xE#4 := by decide
theorem test_ledaOff_40_discarded : nextOf (step (running .a true 0 0xF#4 [.rx 0x28#8 false])) = some (running .a true 0 0xF#4 []) := by
  decide
theorem test_ledaPri_clears_secondary : entryAfter (running .a true 0 0xF#4 [.rx 0x44#8 false]) 2 = some 0xD#4 := by decide
theorem test_ledaPri_2_1_level0 : entryAfter (running .a false 0 0x6#4 [.rx 0x45#8 false]) 2 = some 0xA#4 := by decide
theorem test_ledaSec_2_1 : entryAfter (running .a true 0 0x5#4 [.rx 0x85#8 false]) 2 = some 0x9#4 := by decide
theorem test_ledaSec_2_0_level0 : entryAfter (running .a false 0 0x6#4 [.rx 0x84#8 false]) 2 = some 0x5#4 := by decide
theorem test_ledaBoth_highest : entryAfter (running .a true 0 0x0#4 [.rx 0xE7#8 false]) 19 = some 0xC#4 := by decide
theorem test_ledaBoth_2_0_level0 : entryAfter (running .a false 0 0xA#4 [.rx 0xC4#8 false]) 2 = some 0x8#4 := by decide
theorem test_ledbOff_2_3 : entryAfter (running .b true 0 0xA#4 [.rx 0x0B#8 false]) 2 = some 0x2#4 := by decide
theorem test_ledbOff_2_0_level0 : entryAfter (running .b false 0 0x0#4 [.rx 0x08#8 false]) 2 = some 0x1#4 := by decide
theorem test_ledbOn_highest_level0 : entryAfter (running .b false 0 0xF#4 [.rx 0xCF#8 false]) 19 = some 0x7#4 := by decide
theorem test_ledbOn_20_no_wrap_no_clamp :
    nextOf (step (running .b true 0 0x0#4 [.rx 0xD0#8 false])) = some (running .b true 0 0x0#4 []) := by decide

/-! ### Events: T1 to T6, P5 -/

theorem test_error_byte_discarded : nextOf (step (start .b true [.rx 0x85#8 true])) = some (start .b true []) := by decide

theorem test_first_tick_level0 :
    traceAfter (start .b false [.tick]) =
      some [(0xF#4, 0xFFFFF#20), (0xF#4, 0xFFFFD#20), (0xF#4, 0xFFFFD#20), (0x0#4, 0xFFFFD#20)] := by decide

theorem test_first_tick_shows_entry_before_override :
    traceAfter { start .b true [.tick] with rss := Vector.replicate 20 0x2#4 } =
      some [(0x0#4, 0xFFFFF#20), (0x0#4, 0xFFFFD#20), (0x2#4, 0xFFFFD#20), (0xF#4, 0xFFFFD#20)] := by decide

theorem test_first_tick_counts_down : (nextOf (step (start .b true [.tick]))).map State.countdown = some 999#16 := by decide

theorem test_normal_tick_does_not_count_below_zero :
    (nextOf (step (running .b true 0 0x2#4 [.tick]))).map (fun t => (t.countdown, t.rowOut)) = some (0#16, 0x2#4) := by decide

theorem test_cursor_wraps :
    traceAfter (running .b true 19 0x1#4 [.tick]) =
      some [(0x0#4, 0x7FFFF#20), (0x0#4, 0xFFFFE#20), (0x1#4, 0xFFFFE#20)] := by decide

theorem test_reset_event_in_mid_run : nextOf (step (running .b true 3 0x2#4 [.reset])) = some (start .b true []) := by decide

theorem test_receive_error_parity_only_in_b :
    receiveError .a false true = false ∧ receiveError .b false true = true ∧ receiveError .a true false = true := by decide

theorem test_table_word_runs_first :
    nextOf (step (State.reset.withFetchWord 8 0x41)) = nextOf (exec (.ledaPri 0 1) State.reset) := by decide

/-! ### Witnesses: states and operands that meet the hypotheses of each statement -/

theorem witness_EveryByteDecodesByItsTableRow :
    0x3F#8 &&& 0xC0#8 = 0x00#8 ∧ 0x40#8 &&& 0xC0#8 = 0x40#8 ∧ 0xBF#8 &&& 0xC0#8 = 0x80#8 ∧ 0xFF#8 &&& 0xC0#8 = 0xC0#8 ∧
    0x7F#8 &&& 0x80#8 = 0x00#8 ∧ 0x80#8 &&& 0x80#8 = 0x80#8 := by decide

theorem witness_DecodeOfEncodeIsTheInstruction : (Instr.ledaBoth 31 1).wellFormed .a = true := by decide

theorem witness_VariantAloneDecidesMeaning :
    Next (.rx 0x85#8 false) [.tick] (start .b true [.rx 0x85#8 false, .tick]) ∧ (start .b true []).cfg.variant = .b ∧
    Next (.rx 0x85#8 false) [.tick] (start .a true [.rx 0x85#8 false, .tick]) ∧ (start .a true []).cfg.variant = .a :=
  ⟨rfl, rfl, rfl, rfl⟩

theorem witness_VariantAloneDecidesMeaning_step : step (start .b true []) = .next (start .b true []) := rfl

theorem witness_OnlyOutOfGridBytesHaveNoEffect :
    Next (.rx 0x28#8 false) [] (start .a true [.rx 0x28#8 false]) ∧ OutOfGrid .a 0x28#8 ∧ ¬ OutOfGrid .a 0x27#8 ∧
    Next (.rx 0x50#8 false) [] (start .b true [.rx 0x50#8 false]) ∧ OutOfGrid .b 0x50#8 ∧ ¬ OutOfGrid .b 0x4F#8 :=
  ⟨rfl, by unfold OutOfGrid; decide, by unfold OutOfGrid; decide, rfl, by unfold OutOfGrid; decide, by unfold OutOfGrid; decide⟩

theorem witness_StepRunsTheDecodedInstruction :
    Next (.rx 0x41#8 false) [] (start .a true [.rx 0x41#8 false]) ∧ decodeBytes .a [0x41#8] = .ok (.ledaPri 0 1, []) ∧
    (Instr.ledaPri 0 1).wellFormed .a = true := ⟨rfl, rfl, rfl⟩

theorem witness_FetchedWordRunsAfterReset : decodeTableWord 8 0xE7 = some (.ledaBoth 19 1) := by decide

theorem witness_ErrorByteAndIdleChangeNothing :
    Next (.rx 0x85#8 true) [] (start .b true [.rx 0x85#8 true]) ∧ (start .b true []).input = [] := ⟨rfl, rfl⟩

/-- Both clauses of the six command statements (LedaOffDarkensItsGroup to LedbOnLightsItsLed), at the boundary of the
column's range; and an entry that already holds the state. -/
theorem witness_command_columns :
    (19 : Column).val = (19#5).toNat ∧ 20 ≤ (20#5).toNat ∧
    (memRead (running .a true 0 0x1#4 []) 19).getLsbD (2 * (0#1).toNat) = (true == true) ∧
    (memRead (running .a true 0 0x1#4 []) 19).getLsbD (2 * (0#1).toNat + 1) = (false == true) ∧
    (memRead (running .b true 0 0x8#4 []) 19).getLsbD (3#2).toNat = (true == true) := by decide

/-- The bytes of the commands' ranges. -/
theorem witness_command_bytes :
    0xE7#8 &&& 0xC0#8 = 0xC0#8 ∧ 0xE8#8 &&& 0xC0#8 = 0xC0#8 ∧ 0x4F#8 &&& 0x80#8 = 0x00#8 ∧ 0x50#8 &&& 0x80#8 = 0x00#8 ∧
    0xCF#8 &&& 0x80#8 = 0x80#8 ∧ 0xD0#8 &&& 0x80#8 = 0x80#8 := by decide

/-- The hypotheses of a worked example. -/
theorem witness_ByteTakes :
    Next (.rx 0x06#8 false) [] (running .a true 0 0x6#4 [.rx 0x06#8 false]) ∧
    memRead (running .a true 0 0x6#4 [.rx 0x06#8 false]) 3 = 0x6#4 ∧
    Next (.rx 0x85#8 false) [] (running .b false 0 0xF#4 [.rx 0x85#8 false]) ∧
    memRead (running .b false 0 0xF#4 [.rx 0x85#8 false]) 1 = 0xF#4 := ⟨rfl, by decide, rfl, by decide⟩

theorem witness_OutOfGridCommandIsDiscarded : 20 ≤ (Instr.ledbOn 20 0).column.toNat := by decide

theorem witness_CommandTwiceIsCommandOnce :
    (nextOf (exec (.ledaPri 0 1) (start .a true []))).isSome = true := by decide

theorem witness_LastCommandToAnLedWins :
    (Instr.ledaBoth 3 0).variant = (Instr.ledaSec 3 0).variant ∧ (Instr.ledaBoth 3 0).ledAddress = (Instr.ledaSec 3 0).ledAddress ∧
    (nextOf (exec (.ledaBoth 3 0) (start .a true []))).isSome = true := by decide

theorem witness_CommandsToDifferentLedsCommute :
    (Instr.ledbOn 19 3).variant = (Instr.ledbOff 19 2).variant ∧ (Instr.ledbOn 19 3).ledAddress ≠ (Instr.ledbOff 19 2).ledAddress := by
  decide

theorem witness_OnThenOffRestoresADarkLed :
    (∀ k : Column, k.val = (1#5).toNat → (memRead (start .b true []) k).getLsbD (1#2).toNat = !true) ∧
    (nextOf (exec (.ledbOn 1 1) (start .b true []))).isSome = true := by decide

/-- A tick in the window and out of it, and at both ends of the cursor's range: the hypotheses of TickBlanksFirst,
TickAdvancesCursorCyclically, TickSelectsExactlyOneColumn, SelfTestOverridesRowsAndCountsDown,
TickGivesTheNormativeState, MergedTickIsASubTrace and of the tick clauses of OnlyTheDecoderMutatesTheStore and
SelfTestWindowIsEnteredByResetOnly. -/
theorem witness_ticks :
    Next .tick [] (start .b true [.tick]) ∧ 0 < (start .b true [.tick]).countdown.toNat ∧
    Next .tick [] (running .b true 18 0x2#4 [.tick]) ∧ (running .b true 18 0x2#4 [.tick]).countdown = 0#16 ∧
    (running .b true 18 0x2#4 [.tick]).cursor.val < 19 ∧ (running .b true 19 0x2#4 [.tick]).cursor.val = 19 :=
  ⟨rfl, by decide, rfl, rfl, by decide, rfl⟩

/-- A step that takes neither a tick nor a reset, and changes an entry (OnlyTheDecoderMutatesTheStore, and the second
clause of TickAdvancesCursorCyclically). -/
theorem witness_OnlyTheDecoderMutatesTheStore :
    entryAfter (running .b true 0 0x0#4 [.rx 0x85#8 false]) 1 = some 0x2#4 ∧
    memRead (running .b true 0 0x0#4 [.rx 0x85#8 false]) 1 = 0x0#4 ∧
    (running .b true 0 0x0#4 [.rx 0x85#8 false]).input.head? ≠ some .reset ∧
    (running .b true 0 0x0#4 [.rx 0x85#8 false]).input.head? ≠ some .tick := by decide

theorem witness_ResetEventTakesTheResetState :
    Next .reset [.tick] (running .b true 3 0x2#4 [.reset, .tick]) := rfl

theorem witness_EveryResetIsTheSame :
    [Event.reset] ∈ ({ reset := true, tick := true, rx := some (0x85#8, false) } : Arrivals).orders := by decide

/-- A state that meets the invariant, has run a tick, and drives an LED. -/
def drivingLed : State :=
  { running .b true 1 0x2#4 [.tick] with
    rowOut := 0x2#4
    trace := [(0x0#4, 0xFFFFE#20), (0x0#4, 0xFFFFD#20), (0x2#4, 0xFFFFD#20)] }

theorem witness_EveryStepKeepsTheInvariant : Inv drivingLed ∧ (nextOf (step drivingLed)).isSome = true := by
  refine ⟨⟨by decide, fun h => absurd h (by decide), fun _ => ⟨by decide, by decide⟩, ?_⟩, by decide⟩
  refine ⟨?_, ?_, trivial⟩ <;> unfold blankSwitch <;> decide

theorem witness_DrivenLedsStandInOneColumn :
    Inv drivingLed ∧ lit drivingLed 1 1 = true ∧ drivingLed.colOut.getLsbD 1 = false ∧
    (start .b true []).rowOut = allOff (start .b true []).cfg.rowOnLevel :=
  ⟨witness_EveryStepKeepsTheInvariant.1, by decide, by decide, rfl⟩

/-- Both clauses of R112, at the boundary: tick 1000 (999 ticks before it) and tick 1001. -/
theorem witness_SelfTestWindowIsThousandTicks :
    Config.standard.selftestTicks = 1000#16 ∧
    noReset (List.replicate 999 Event.tick) = true ∧ ticksIn (List.replicate 999 Event.tick) + 1 ≤ 1000 ∧
    noReset (List.replicate 1000 Event.tick) = true ∧ 1001 ≤ ticksIn (List.replicate 1000 Event.tick) + 1 := by
  have h : ∀ n, noReset (List.replicate n Event.tick) = true := fun n => by
    unfold noReset
    rw [List.all_replicate]
    split <;> rfl
  have k : ∀ n, ticksIn (List.replicate n Event.tick) = n := fun n => by
    unfold ticksIn
    rw [List.countP_replicate]
    rfl
  exact ⟨rfl, h _, by rw [k], h _, by rw [k]⟩

/-- Sequences with no tick, one, nineteen and twenty, some with a byte between: CountersAfterNTicks (both clauses),
TwentyTicksRenderEveryColumnOnce, StoreDependsOnCommandsOnly, CoincidentTickAndByteRace (both clauses). -/
theorem witness_sequences :
    noReset [] = true ∧ ticksIn [] = 0 ∧ noReset [.rx 0x85#8 false, .tick] = true ∧ ticksIn [.rx 0x85#8 false, .tick] = 1 ∧
    noReset (List.replicate 19 Event.tick) = true ∧ ticksIn (List.replicate 19 Event.tick) = 19 ∧
    noReset (List.replicate 20 Event.tick) = true ∧ ticksIn (List.replicate 20 Event.tick) = 20 := by decide

theorem witness_ScanIsIndependentOfCommands :
    ticksIn [.tick] = ticksIn [.rx 0x85#8 false, .tick] ∧ (start .a true []).cursor = (start .b true []).cursor ∧
    (start .a true []).countdown = (start .b true []).countdown ∧ (start .a true []).colOut = (start .b true []).colOut := by
  decide

theorem witness_CoincidentTickAndByteRace :
    (running .b true 0 0x0#4 []).countdown = 0#16 ∧
    commandsColumn .b (nextColumn (running .b true 0 0x0#4 []).cursor) (.rx 0x85#8 false) = true ∧
    Untouched .b 1 (List.replicate 19 Event.tick) :=
  ⟨rfl, by decide, by unfold Untouched; decide⟩

/-- A command lands between any two steps of a tick: the first and the last place of each clause. -/
theorem witness_CommandInsideATickIsOneOfTheTwoOrders : 0 ≤ 3 ∧ 3 ≤ 3 ∧ 4 ≤ 4 ∧ 4 ≤ 5 ∧ tickSteps.length = 5 := by decide

/-- The command, the window, and a rendering of its column by the first tick. -/
theorem witness_CommandedLedIsDrivenAtItsNextRendering :
    (nextOf (exec (.ledbOn 1 1) (running .b true 0 0x0#4 []))).isSome = true ∧
    (1 : Column).val = (Instr.ledbOn 1 1).column.toNat ∧ noReset [] = true ∧ Untouched .b 1 [] ∧
    ((nextOf (exec (.ledbOn 1 1) (running .b true 0 0x0#4 []))).bind fun t => nextOf (process [.tick] t)).map State.cursor = some 1 ∧
    (Instr.ledbOn 1 1).says 1 = some true :=
  ⟨by decide, by decide, rfl, by unfold Untouched; decide, by decide, by decide⟩

/-- The window opens at a reset, and closes at the tick that counts from one. -/
theorem witness_SelfTestWindowIsEnteredByResetOnly :
    (nextOf (step (running .b true 3 0x2#4 [.reset]))).map State.countdown = some 1000#16 ∧
    (running .b true 3 0x2#4 [.reset]).countdown.toNat < 1000 ∧
    (nextOf (step { start .b true [.tick] with countdown := 1#16 })).map State.countdown = some 0#16 ∧
    ({ start .b true [.tick] with countdown := 1#16 } : State).input.head? ≠ some .reset := by decide

theorem witness_CompletePinMapIsInjective :
    pinMapComplete PinMap.plain = true ∧ pinOutputs PinMap.plain 0xFFFFD#20 = pinOutputs PinMap.plain (colTab 1) := by decide

end Sys2Proof.Tests
end

section
/-! SUPPORT. Proofs about the state: which events may change an entry of the store (R23), what a tick does to the row
lines in the self-test window (R105), and the reset state (R35, R140). -/

namespace Sys2Proof.Proofs

open Sys2Proof.Machine Sys2Proof.Claims

/-- R23, for one event: apart from a reset, only an error-free byte whose command names the entry's column changes it. -/
theorem eventResult_changes_entry {e : Event} {s : State} {c : Column} (he : e ≠ .reset)
    (hc : memRead (eventResult e s) c ≠ memRead s c) :
    ∃ b, e = .rx b false ∧ (decode s.cfg.variant b).column.toNat = c.val := by
  cases e with
  | reset => exact absurd rfl he
  | tick => exact absurd (memRead_congr (onTick_common s).2.1 c) hc
  | rx b err =>
    cases err with
    | true => exact absurd rfl hc
    | false =>
      refine ⟨b, rfl, ?_⟩
      by_contra hcol
      exact hc ((commandResult_frame (decode s.cfg.variant b) s).2 c (Ne.symm hcol))

/-- R105: in the self-test window the tick ends with every row line on, whatever the store holds. -/
theorem onTick_rowOut_open {s : State} (h : s.countdown ≠ 0#16) : (onTick s).rowOut = allOn s.cfg.rowOnLevel := by
  rw [onTick_open h]

/-- Settles O31: the first clause by the one event the step takes, the second by the frame and the window of a tick. -/
theorem onlyTheDecoderMutatesTheStore : Obligations.OnlyTheDecoderMutatesTheStore := by
  unfold Obligations.OnlyTheDecoderMutatesTheStore
  constructor
  · intro s t c hstep hchange hnoReset
    obtain ⟨-, rfl⟩ | ⟨e, rest, hin, rfl⟩ := step_cases hstep
    · exact absurd rfl hchange
    · rw [hin, List.head?_cons] at hnoReset ⊢
      obtain ⟨b, rfl, hcol⟩ := eventResult_changes_entry (fun he => hnoReset (congrArg some he)) hchange
      exact ⟨b, rfl, hcol⟩
  · intro s rest hnext
    refine ⟨_, step_event hnext, (onTick_common _).2.1, fun hopen => ?_⟩
    have hne : s.countdown ≠ 0#16 := fun h0 => by simp [h0] at hopen
    exact onTick_rowOut_open (s := { s with input := rest }) hne

/-- Settles O32: the step is `takeReset`, whose fields are the reset state's. -/
theorem resetEventTakesTheResetState : Obligations.ResetEventTakesTheResetState := by
  unfold Obligations.ResetEventTakesTheResetState
  refine ⟨fun s rest hnext => ?_, rfl⟩
  have hstep : step s = .next (takeReset { s with input := rest }) := step_event hnext
  exact ⟨_, hstep, memRead_takeReset _, takeReset_cursor _, takeReset_countdown _, takeReset_rowOut _,
    takeReset_colOut _, takeReset_cfg _⟩

end Sys2Proof.Proofs
end

section
/-! SUPPORT. Proofs about the encoding: the decoder by the fields of the byte (R63, R64, R68), the variant as the one
thing that decides the meaning (R69), and the bytes without effect (R70). -/

namespace Sys2Proof.Proofs

open Sys2Proof.Machine Sys2Proof.Claims

/-! ### The fields of a byte -/

/-- The column is `address >> 1` of Format A's six address bits (R63). -/
theorem addressA_shift (b : Byte) : ((b.extractLsb' 0 6 : BitVec 6) >>> 1).truncate 5 = columnFieldA b := by
  unfold columnFieldA
  apply BitVec.eq_of_toNat_eq
  simp only [BitVec.truncate_eq_setWidth, BitVec.toNat_setWidth, BitVec.toNat_ushiftRight, BitVec.extractLsb'_toNat,
    Nat.shiftRight_eq_div_pow]
  omega

/-- The group is `address & 1` (R63). -/
theorem addressA_and (b : Byte) : ((b.extractLsb' 0 6 : BitVec 6) &&& 1#6).truncate 1 = groupFieldA b := by
  revert b; decide

/-- The column is `address >> 2` of Format B's seven address bits (R64). -/
theorem addressB_shift (b : Byte) : ((b.extractLsb' 0 7 : BitVec 7) >>> 2).truncate 5 = columnFieldB b := by
  unfold columnFieldB
  apply BitVec.eq_of_toNat_eq
  simp only [BitVec.truncate_eq_setWidth, BitVec.toNat_setWidth, BitVec.toNat_ushiftRight, BitVec.extractLsb'_toNat,
    Nat.shiftRight_eq_div_pow]
  omega

/-- The row is `address & 3` (R64). -/
theorem addressB_and (b : Byte) : ((b.extractLsb' 0 7 : BitVec 7) &&& 3#7).truncate 2 = rowFieldB b := by
  revert b; decide

/-- The mask 0xC0 keeps Format A's state field and nothing else (R68). -/
theorem and_maskA (b : Byte) : b &&& 0xC0#8 = stateFieldA b ++ 0#6 := by
  revert b; decide

/-- The mask 0x80 keeps Format B's state field and nothing else (R68). -/
theorem and_maskB (b : Byte) : b &&& 0x80#8 = stateFieldB b ++ 0#7 := by
  revert b; decide

theorem stateFieldA_eq_iff (b : Byte) (st : BitVec 2) : stateFieldA b = st ↔ b &&& 0xC0#8 = st ++ 0#6 := by
  rw [and_maskA, BitVec.append_left_inj]

theorem stateFieldB_eq_iff (b : Byte) (st : BitVec 1) : stateFieldB b = st ↔ b &&& 0x80#8 = st ++ 0#7 := by
  rw [and_maskB, BitVec.append_left_inj]

/-! ### The decoder -/

theorem decode_ledaOff {b : Byte} (h : stateFieldA b = 0b00#2) :
    decode .a b = .ledaOff (columnFieldA b) (groupFieldA b) := by
  simp [decode, decodeA, h]

theorem decode_ledaPri {b : Byte} (h : stateFieldA b = 0b01#2) :
    decode .a b = .ledaPri (columnFieldA b) (groupFieldA b) := by
  simp [decode, decodeA, h]

theorem decode_ledaSec {b : Byte} (h : stateFieldA b = 0b10#2) :
    decode .a b = .ledaSec (columnFieldA b) (groupFieldA b) := by
  simp [decode, decodeA, h]

theorem decode_ledaBoth {b : Byte} (h : stateFieldA b = 0b11#2) :
    decode .a b = .ledaBoth (columnFieldA b) (groupFieldA b) := by
  simp [decode, decodeA, h]

theorem decode_ledbOff {b : Byte} (h : stateFieldB b = 0b0#1) :
    decode .b b = .ledbOff (columnFieldB b) (rowFieldB b) := by
  simp [decode, decodeB, h]

theorem decode_ledbOn {b : Byte} (h : stateFieldB b = 0b1#1) :
    decode .b b = .ledbOn (columnFieldB b) (rowFieldB b) := by
  simp [decode, decodeB, h]

theorem stateFieldA_cases (b : Byte) :
    stateFieldA b = 0b00#2 ∨ stateFieldA b = 0b01#2 ∨ stateFieldA b = 0b10#2 ∨ stateFieldA b = 0b11#2 := by
  generalize stateFieldA b = st
  revert st; decide

theorem stateFieldB_cases (b : Byte) : stateFieldB b = 0b0#1 ∨ stateFieldB b = 0b1#1 := by
  generalize stateFieldB b = st
  revert st; decide

/-- A decoder of variant v answers with commands of v only (R69). -/
theorem decode_variant (v : Variant) (b : Byte) : (decode v b).variant = v := by
  cases v with
  | a =>
    obtain h | h | h | h := stateFieldA_cases b
    · rw [decode_ledaOff h]; rfl
    · rw [decode_ledaPri h]; rfl
    · rw [decode_ledaSec h]; rfl
    · rw [decode_ledaBoth h]; rfl
  | b =>
    obtain h | h := stateFieldB_cases b
    · rw [decode_ledbOff h]; rfl
    · rw [decode_ledbOn h]; rfl

theorem decode_a_column (b : Byte) : (decode .a b).column = columnFieldA b := by
  obtain h | h | h | h := stateFieldA_cases b
  · rw [decode_ledaOff h]; rfl
  · rw [decode_ledaPri h]; rfl
  · rw [decode_ledaSec h]; rfl
  · rw [decode_ledaBoth h]; rfl

theorem decode_b_column (b : Byte) : (decode .b b).column = columnFieldB b := by
  obtain h | h := stateFieldB_cases b
  · rw [decode_ledbOff h]; rfl
  · rw [decode_ledbOn h]; rfl

/-- A byte belongs to the table row of the instruction it decodes to (R68). -/
theorem decode_tableRow_matches (v : Variant) (b : Byte) :
    b &&& (decode v b).tableRow.mask = (decode v b).tableRow.matchBits := by
  cases v with
  | a =>
    obtain h | h | h | h := stateFieldA_cases b
    · rw [decode_ledaOff h]; exact (stateFieldA_eq_iff b _).mp h
    · rw [decode_ledaPri h]; exact (stateFieldA_eq_iff b _).mp h
    · rw [decode_ledaSec h]; exact (stateFieldA_eq_iff b _).mp h
    · rw [decode_ledaBoth h]; exact (stateFieldA_eq_iff b _).mp h
  | b =>
    obtain h | h := stateFieldB_cases b
    · rw [decode_ledbOff h]; exact (stateFieldB_eq_iff b _).mp h
    · rw [decode_ledbOn h]; exact (stateFieldB_eq_iff b _).mp h

theorem tableRow_variant (i : Instr) : i.tableRow.variant = i.variant := by
  cases i <;> rfl

/-- The six rows of R68's table. -/
def opcodeTable : List OpcodeRow :=
  [⟨.a, 0x00#8, 0xC0#8⟩, ⟨.a, 0x40#8, 0xC0#8⟩, ⟨.a, 0x80#8, 0xC0#8⟩, ⟨.a, 0xC0#8, 0xC0#8⟩,
   ⟨.b, 0x00#8, 0x80#8⟩, ⟨.b, 0x80#8, 0x80#8⟩]

theorem tableRow_mem_opcodeTable (i : Instr) : i.tableRow ∈ opcodeTable := by
  cases i <;> simp [Instr.tableRow, opcodeTable]

/-- Settles O1: the operands by the address arithmetic, the opcode by the mask, and the row by the decoder. -/
theorem everyByteDecodesByItsTableRow : Obligations.EveryByteDecodesByItsTableRow := by
  unfold Obligations.EveryByteDecodesByItsTableRow
  refine ⟨fun b => ?_, fun b => ?_, fun v b => ?_⟩
  · have hstate := stateFieldA_eq_iff b
    dsimp only
    rw [addressA_shift, addressA_and]
    exact ⟨rfl, rfl, hstate 0b00#2, fun h => decode_ledaOff ((hstate _).mpr h),
      hstate 0b01#2, fun h => decode_ledaPri ((hstate _).mpr h),
      hstate 0b10#2, fun h => decode_ledaSec ((hstate _).mpr h),
      hstate 0b11#2, fun h => decode_ledaBoth ((hstate _).mpr h)⟩
  · have hstate := stateFieldB_eq_iff b
    dsimp only
    rw [addressB_shift, addressB_and]
    exact ⟨rfl, rfl, hstate 0b0#1, fun h => decode_ledbOff ((hstate _).mpr h),
      hstate 0b1#1, fun h => decode_ledbOn ((hstate _).mpr h)⟩
  · have hvariant : (decode v b).tableRow.variant = v := (tableRow_variant _).trans (decode_variant v b)
    exact ⟨(decode v b).tableRow,
      ⟨tableRow_mem_opcodeTable _, hvariant, decode_tableRow_matches v b, rfl⟩,
      fun _ ⟨_, _, _, hrow⟩ => hrow.symm⟩

/-! ### The meaning of a byte -/

/-- A byte without error runs the active variant's instruction, once the event is taken. -/
theorem step_rx {s : State} {b : Byte} {rest : List Event} (h : Next (.rx b false) rest s) :
    step s = exec (decode s.cfg.variant b) { s with input := rest } :=
  (step_event h).trans (exec_eq _ _).symm

theorem step_cfg {s t : State} (h : step s = .next t) : t.cfg = s.cfg := by
  obtain ⟨-, rfl⟩ | ⟨e, rest, -, rfl⟩ := step_cases h
  · rfl
  · exact eventResult_cfg e _

/-- Settles O5: the step runs what the decoder of the state's variant answers, and no event changes a parameter. -/
theorem variantAloneDecidesMeaning : Obligations.VariantAloneDecidesMeaning := by
  unfold Obligations.VariantAloneDecidesMeaning
  refine ⟨fun s rest hnext => ⟨fun hv => ?_, fun hv => ?_⟩, fun s s' b rest hv hnext hnext' => ?_,
    fun s t hstep => congrArg Config.variant (step_cfg hstep)⟩
  · rw [step_rx hnext, hv]; rfl
  · rw [step_rx hnext, hv]; rfl
  · exact ⟨decode s.cfg.variant b, decode_variant _ b, step_rx hnext, hv ▸ step_rx hnext'⟩

/-! ### The bytes without effect -/

/-- The bound on the address is the bound on the decoded column (R70). -/
theorem outOfGrid_iff (v : Variant) (b : Byte) : OutOfGrid v b ↔ 20 ≤ (decode v b).column.toNat := by
  cases v with
  | a =>
    rw [decode_a_column]
    simp only [OutOfGrid, columnFieldA, BitVec.extractLsb'_toNat, Nat.shiftRight_eq_div_pow]
    omega
  | b =>
    rw [decode_b_column]
    simp only [OutOfGrid, columnFieldB, BitVec.extractLsb'_toNat, Nat.shiftRight_eq_div_pow]
    omega

/-- A masked write over the complement of its value is seen in every bit of the mask. -/
theorem maskedWrite_complement_ne {m : Entry} (hm : m ≠ 0#4) (v : Entry) : (~~~v &&& ~~~m) ||| v ≠ ~~~v := by
  revert m v; decide

theorem groupMask_ne_zero (g : BitVec 1) : groupMask g ≠ 0#4 := by
  revert g; decide

theorem rowMask_ne_zero (r : BitVec 2) : rowMask r ≠ 0#4 := by
  revert r; decide

/-- Every command owns at least one bit of its entry. -/
theorem commandMask_ne_zero (i : Instr) : commandMask i ≠ 0#4 := by
  cases i with
  | ledaOff _ g => exact groupMask_ne_zero g
  | ledaPri _ g => exact groupMask_ne_zero g
  | ledaSec _ g => exact groupMask_ne_zero g
  | ledaBoth _ g => exact groupMask_ne_zero g
  | ledbOff _ r => exact rowMask_ne_zero r
  | ledbOn _ r => exact rowMask_ne_zero r

theorem commandResult_discards {i : Instr} (h : 20 ≤ i.column.toNat) (s : State) : commandResult i s = s :=
  readModifyWrite_discards h _ _ s

/-- `s` with the complement of what the command writes in the entry k. -/
def withComplement (i : Instr) (k : Column) (s : State) : State :=
  memWrite k (~~~commandValue s.cfg.rowOnLevel i) s

/-- In the grid, a command has an effect: it changes an entry that holds the complement of its value. -/
theorem commandResult_withComplement_ne {i : Instr} {k : Column} (hk : k.val = i.column.toNat) (s : State) :
    commandResult i (withComplement i k s) ≠ withComplement i k s := by
  intro heq
  have hentry := congrArg (memRead · k) heq
  unfold commandResult at hentry
  rw [readModifyWrite_writes hk] at hentry
  simp only [withComplement, memRead_memWrite, memWrite_cfg, if_true] at hentry
  exact maskedWrite_complement_ne (commandMask_ne_zero i) _ hentry

/-- The reset state of a block of variant v, with these events to come. -/
def resetThen (v : Variant) (es : List Event) : State :=
  { State.resetOf { Config.standard with variant := v } with input := es }

/-- Only a byte for column 20 to 31 leaves every state as it was (R70). -/
theorem noEffect_iff (v : Variant) (b : Byte) :
    (∀ (s : State) (rest : List Event), s.cfg.variant = v → Next (.rx b false) rest s →
      step s = .next { s with input := rest }) ↔ 20 ≤ (decode v b).column.toNat := by
  constructor
  · intro hnone
    obtain ⟨k, hk, -⟩ | ⟨hcol, -⟩ := columnEntry_cases (decode v b).column
    · have hnext : Next (.rx b false) [] (withComplement (decode v b) k (resetThen v [.rx b false])) := rfl
      have hstep := hnone _ [] rfl hnext
      rw [step_rx hnext, exec_eq] at hstep
      injection hstep with hsame
      exact absurd hsame (commandResult_withComplement_ne hk (resetThen v []))
    · exact hcol
  · rintro hcol s rest rfl hnext
    rw [step_rx hnext, exec_eq, commandResult_discards hcol]

/-- Settles O6: a byte's step is one command, which is without effect exactly when its column has no entry. -/
theorem onlyOutOfGridBytesHaveNoEffect : Obligations.OnlyOutOfGridBytesHaveNoEffect := by
  unfold Obligations.OnlyOutOfGridBytesHaveNoEffect
  refine ⟨fun v b => ⟨fun s rest _ hnext => ⟨_, step_event hnext⟩, ?_, outOfGrid_iff v b⟩, ?_, ?_⟩
  · rw [outOfGrid_iff]
    exact noEffect_iff v b
  · decide
  · decide

end Sys2Proof.Proofs
end

section
/-! SUPPORT. Proofs about the commands: the bytes of Format A (R63, R71), what a command makes of each bit of its column's
entry (R80, R90), and the four Variant A commands (R81 to R84). -/

namespace Sys2Proof.Proofs

open Sys2Proof.Machine Sys2Proof.Claims

/-! ### The bits a command writes -/

/-- What a Variant A command that puts group g's elements in the given states says of row r: the primary element is the
even row of the group, the secondary element the odd one (R65). -/
def groupSays (secondaryOn primaryOn : Bool) (g : BitVec 1) (r : Row) : Option Bool :=
  if r.val / 2 = g.toNat then some (if r.val % 2 = 0 then primaryOn else secondaryOn) else none

theorem ledaOff_says (c : BitVec 5) (g : BitVec 1) (r : Row) :
    (Instr.ledaOff c g).says r = groupSays false false g r := by
  simp [Instr.says, groupSays]

theorem ledaPri_says (c : BitVec 5) (g : BitVec 1) (r : Row) :
    (Instr.ledaPri c g).says r = groupSays false true g r := by
  simp [Instr.says, groupSays]

theorem ledaSec_says (c : BitVec 5) (g : BitVec 1) (r : Row) :
    (Instr.ledaSec c g).says r = groupSays true false g r := by
  obtain h | h := Nat.mod_two_eq_zero_or_one r.val <;> simp [Instr.says, groupSays, h]

theorem ledaBoth_says (c : BitVec 5) (g : BitVec 1) (r : Row) :
    (Instr.ledaBoth c g).says r = groupSays true true g r := by
  simp [Instr.says, groupSays]

theorem groupSays_primary {g : BitVec 1} {r : Row} (hr : r.val = 2 * g.toNat) (sec pri : Bool) :
    groupSays sec pri g r = some pri := by
  unfold groupSays
  rw [if_pos (by omega), if_pos (by omega)]

theorem groupSays_secondary {g : BitVec 1} {r : Row} (hr : r.val = 2 * g.toNat + 1) (sec pri : Bool) :
    groupSays sec pri g r = some sec := by
  unfold groupSays
  rw [if_pos (by omega), if_neg (by omega)]

theorem groupSays_other {g : BitVec 1} {r : Row} (hr : r.val / 2 ≠ g.toNat) (sec pri : Bool) :
    groupSays sec pri g r = none :=
  if_neg hr

/-- Group g names rows 2g and 2g+1 and no other. -/
theorem groupSays_eq_some {g : BitVec 1} {r : Row} {sec pri on : Bool} (h : groupSays sec pri g r = some on) :
    (r.val = 2 * g.toNat ∧ on = pri) ∨ (r.val = 2 * g.toNat + 1 ∧ on = sec) := by
  by_cases hg : r.val / 2 = g.toNat
  · obtain hr | hr : r.val = 2 * g.toNat ∨ r.val = 2 * g.toNat + 1 := by omega
    · rw [groupSays_primary hr] at h
      exact .inl ⟨hr, Option.some.inj h.symm⟩
    · rw [groupSays_secondary hr] at h
      exact .inr ⟨hr, Option.some.inj h.symm⟩
  · rw [groupSays_other hg] at h
    cases h

/-- A Variant A write, by what it says of each row: state bit 0 is the primary element, bit 1 the secondary (R80). -/
theorem groupWrite_bit_says (level : Bool) (e : Entry) (st : BitVec 2) (g : BitVec 1) (r : Row) :
    ((e &&& ~~~groupMask g) ||| groupValue level st g).getLsbD r.val =
      (groupSays (st.getLsbD 1) (st.getLsbD 0) g r).elim (e.getLsbD r.val) (· == level) := by
  rw [groupWrite_bit]
  unfold groupSays
  by_cases hg : r.val / 2 = g.toNat
  · obtain h | h := Nat.mod_two_eq_zero_or_one r.val <;> simp [hg, h]
  · simp [hg]

/-- The entry a command leaves: a bit of the LED takes what the command says of it, any other bit stays (R80, R90). -/
theorem commandWrite_bit (i : Instr) (level : Bool) (e : Entry) (r : Row) :
    ((e &&& ~~~commandMask i) ||| commandValue level i).getLsbD r.val =
      (i.says r).elim (e.getLsbD r.val) (· == level) := by
  cases i with
  | ledaOff c g => rw [ledaOff_says]; exact groupWrite_bit_says level e 0b00#2 g r
  | ledaPri c g => rw [ledaPri_says]; exact groupWrite_bit_says level e 0b01#2 g r
  | ledaSec c g => rw [ledaSec_says]; exact groupWrite_bit_says level e 0b10#2 g r
  | ledaBoth c g => rw [ledaBoth_says]; exact groupWrite_bit_says level e 0b11#2 g r
  | ledbOff c w => simp only [commandMask, commandValue, rowWrite_bit, Instr.says]; split <;> rfl
  | ledbOn c w => simp only [commandMask, commandValue, rowWrite_bit, Instr.says]; split <;> rfl

/-- In the grid, a command writes its column's entry. -/
theorem commandResult_writes {i : Instr} {k : Column} (hk : k.val = i.column.toNat) (s : State) :
    commandResult i s =
      memWrite k ((memRead s k &&& ~~~commandMask i) ||| commandValue s.cfg.rowOnLevel i) s :=
  readModifyWrite_writes hk _ _ s

theorem memRead_commandResult {i : Instr} {k : Column} (hk : k.val = i.column.toNat) (s : State) :
    memRead (commandResult i s) k = (memRead s k &&& ~~~commandMask i) ||| commandValue s.cfg.rowOnLevel i := by
  rw [commandResult_writes hk, memRead_memWrite, if_pos rfl]

/-- A row the command names holds what the command says of it. -/
theorem commandResult_bit_said {i : Instr} {k : Column} (hk : k.val = i.column.toNat) (s : State) {r : Row} {on : Bool}
    (hsays : i.says r = some on) : (memRead (commandResult i s) k).getLsbD r.val = (on == s.cfg.rowOnLevel) := by
  rw [memRead_commandResult hk, commandWrite_bit, hsays, Option.elim_some]

/-- A row the command does not name keeps its bit. -/
theorem commandResult_bit_unsaid {i : Instr} {k : Column} (hk : k.val = i.column.toNat) (s : State) {r : Row}
    (hsays : i.says r = none) : (memRead (commandResult i s) k).getLsbD r.val = (memRead s k).getLsbD r.val := by
  rw [memRead_commandResult hk, commandWrite_bit, hsays, Option.elim_none]

/-- An entry that already holds what the command says: the whole machine stays as it was. -/
theorem commandResult_eq_self {i : Instr} {k : Column} (hk : k.val = i.column.toNat) {s : State}
    (hheld : ∀ (r : Row) (on : Bool), i.says r = some on → (memRead s k).getLsbD r.val = (on == s.cfg.rowOnLevel)) :
    commandResult i s = s := by
  have hentry : memRead (commandResult i s) k = memRead s k := entry_ext fun r => by
    cases hsays : i.says r with
    | none => exact commandResult_bit_unsaid hk s hsays
    | some on => rw [commandResult_bit_said hk s hsays, hheld r on hsays]
  rw [memRead_commandResult hk] at hentry
  rw [commandResult_writes hk, hentry, memWrite_self]

/-! ### The Variant A commands -/

theorem encodeA_eq_append (st : BitVec 2) (c : BitVec 5) (g : BitVec 1) : encodeA st c g = st ++ c ++ g := by
  revert st c g; decide

/-- The state field of three fields side by side is the first of them (R63). -/
theorem stateFieldA_append (st : BitVec 2) (c : BitVec 5) (g : BitVec 1) : stateFieldA (st ++ c ++ g) = st := by
  revert st c g; decide

/-- A Variant A command has Format A once the decoder answers with it for its state field and the encoder writes that
field. -/
theorem formatA_of_stateField {ctor : BitVec 5 → BitVec 1 → Instr} {st : BitVec 2}
    (hdecode : ∀ b, stateFieldA b = st → decode .a b = ctor (columnFieldA b) (groupFieldA b))
    (hencode : ∀ c g, encode (ctor c g) = encodeA st c g) : FormatA ctor st (st ++ 0#6) := by
  refine ⟨fun b hb => hdecode b ((stateFieldA_eq_iff b st).mpr hb), fun c g => ⟨?_, ?_⟩⟩
  · exact (stateFieldA_eq_iff _ st).mp (stateFieldA_append st c g)
  · rw [hencode, encodeA_eq_append]

/-- A command that names its column and says these states of its group sets the group. -/
theorem setsGroup_of_says {ctor : BitVec 5 → BitVec 1 → Instr} {sec pri : Bool}
    (hcolumn : ∀ c g, (ctor c g).column = c) (hsays : ∀ c g r, (ctor c g).says r = groupSays sec pri g r) :
    SetsGroup ctor sec pri := by
  intro s c g
  refine ⟨fun hc => ?_, fun k hk => ?_⟩
  · rw [exec_eq, commandResult_discards ((hcolumn c g).symm ▸ hc)]
  · have hk' : k.val = (ctor c g).column.toNat := by rw [hcolumn, hk]
    obtain ⟨hframe, hothers⟩ := commandResult_frame (ctor c g) s
    have hg : g.toNat < 2 := g.isLt
    refine ⟨commandResult (ctor c g) s, exec_eq _ s, ?_, ?_, fun r hr => ?_, fun d hd => ?_, hframe,
      fun hpri hsec => ?_⟩
    · exact commandResult_bit_said (r := ⟨2 * g.toNat, by omega⟩) hk' s
        ((hsays c g _).trans (groupSays_primary rfl sec pri))
    · exact commandResult_bit_said (r := ⟨2 * g.toNat + 1, by omega⟩) hk' s
        ((hsays c g _).trans (groupSays_secondary rfl sec pri))
    · exact commandResult_bit_unsaid hk' s ((hsays c g r).trans (groupSays_other hr sec pri))
    · exact hothers d fun he => hd (Fin.ext (he.trans hk'.symm))
    · refine commandResult_eq_self hk' fun r on hon => ?_
      rw [hsays] at hon
      obtain ⟨hr, rfl⟩ | ⟨hr, rfl⟩ := groupSays_eq_some hon
      · rw [hr, hpri]
      · rw [hr, hsec]

/-- A worked example holds when the byte's command, worked out on the entry, gives the second value. -/
theorem byteTakes_of_decode {v : Variant} {level : Bool} {b : Byte} {i : Instr} {k : Column} {before after : Entry}
    (hdecode : decode v b = i) (hk : k.val = i.column.toNat)
    (hentry : (before &&& ~~~commandMask i) ||| commandValue level i = after) : ByteTakes v level b k before after := by
  rintro s rest rfl rfl hnext rfl
  have hstep : step s = .next (commandResult i { s with input := rest }) := by
    rw [step_rx hnext, hdecode, exec_eq]
  exact ⟨_, hstep, (memRead_commandResult hk _).trans hentry⟩

/-- Settles O12: the opcode by the decoder, the effect by what the command says of its rows, the examples by its write. -/
theorem ledaOffDarkensItsGroup : Obligations.LedaOffDarkensItsGroup := by
  unfold Obligations.LedaOffDarkensItsGroup
  have h06 : decode .a 0x06#8 = .ledaOff 3 0 := by decide
  exact ⟨formatA_of_stateField (fun _ => decode_ledaOff) (fun _ _ => rfl),
    setsGroup_of_says (fun _ _ => rfl) ledaOff_says, by decide,
    byteTakes_of_decode h06 rfl (by decide), byteTakes_of_decode h06 rfl (by decide)⟩

/-- Settles O13: like O12, with the primary element said on. -/
theorem ledaPriLightsPrimaryOnly : Obligations.LedaPriLightsPrimaryOnly := by
  unfold Obligations.LedaPriLightsPrimaryOnly
  have h41 : decode .a 0x41#8 = .ledaPri 0 1 := by decide
  exact ⟨formatA_of_stateField (fun _ => decode_ledaPri) (fun _ _ => rfl),
    setsGroup_of_says (fun _ _ => rfl) ledaPri_says,
    byteTakes_of_decode h41 rfl (by decide), byteTakes_of_decode h41 rfl (by decide)⟩

/-- Settles O14: like O12, with the secondary element said on. -/
theorem ledaSecLightsSecondaryOnly : Obligations.LedaSecLightsSecondaryOnly := by
  unfold Obligations.LedaSecLightsSecondaryOnly
  have h86 : decode .a 0x86#8 = .ledaSec 3 0 := by decide
  exact ⟨formatA_of_stateField (fun _ => decode_ledaSec) (fun _ _ => rfl),
    setsGroup_of_says (fun _ _ => rfl) ledaSec_says,
    byteTakes_of_decode h86 rfl (by decide), byteTakes_of_decode h86 rfl (by decide)⟩

/-- With both state bits set, the column is in the grid exactly up to byte 0xE7 (R84). -/
theorem columnFieldA_lt_iff {b : Byte} (h : stateFieldA b = 0b11#2) : (columnFieldA b).toNat < 20 ↔ b ≤ 0xE7#8 := by
  have hstate : b.toNat / 64 % 4 = 3 := by
    simpa [stateFieldA, BitVec.extractLsb'_toNat, Nat.shiftRight_eq_div_pow] using congrArg BitVec.toNat h
  have hcolumn : (columnFieldA b).toNat = b.toNat / 2 % 32 := by
    simp [columnFieldA, BitVec.extractLsb'_toNat, Nat.shiftRight_eq_div_pow]
  have hbound : b ≤ 0xE7#8 ↔ b.toNat ≤ 231 := Iff.rfl
  rw [hcolumn, hbound]
  omega

/-- Settles O15: like O12, with both elements said on, and the byte bound by the arithmetic of the column field. -/
theorem ledaBothLightsItsGroup : Obligations.LedaBothLightsItsGroup := by
  unfold Obligations.LedaBothLightsItsGroup
  have hC6 : decode .a 0xC6#8 = .ledaBoth 3 0 := by decide
  refine ⟨formatA_of_stateField (fun _ => decode_ledaBoth) (fun _ _ => rfl),
    setsGroup_of_says (fun _ _ => rfl) ledaBoth_says, by decide, by decide, fun b hb => ?_,
    byteTakes_of_decode hC6 rfl (by decide), byteTakes_of_decode hC6 rfl (by decide)⟩
  rw [decode_a_column]
  exact columnFieldA_lt_iff ((stateFieldA_eq_iff b _).mpr hb)

end Sys2Proof.Proofs
end

section
/-! SUPPORT. Proofs about the Variant B commands (R91, R92): the bytes of Format B (R64, R71), the bytes whose column is in
the grid, and the one bit a command sets (R90). -/

namespace Sys2Proof.Proofs

open Sys2Proof.Machine Sys2Proof.Claims

/-! ### The bytes of Format B -/

theorem encodeB_eq_append (st : BitVec 1) (c : BitVec 5) (r : BitVec 2) : encodeB st c r = st ++ c ++ r := by
  revert st c r; decide

/-- The state field of three fields side by side is the first of them (R64). -/
theorem stateFieldB_append (st : BitVec 1) (c : BitVec 5) (r : BitVec 2) : stateFieldB (st ++ c ++ r) = st := by
  revert st c r; decide

/-- A Variant B command has Format B once the decoder answers with it for its state field and the encoder writes that
field. -/
theorem formatB_of_stateField {ctor : BitVec 5 → BitVec 2 → Instr} {st : BitVec 1}
    (hdecode : ∀ b, stateFieldB b = st → decode .b b = ctor (columnFieldB b) (rowFieldB b))
    (hencode : ∀ c r, encode (ctor c r) = encodeB st c r) : FormatB ctor st (st ++ 0#7) := by
  refine ⟨fun b hb => hdecode b ((stateFieldB_eq_iff b st).mpr hb), fun c r => ⟨?_, ?_⟩⟩
  · exact (stateFieldB_eq_iff _ st).mp (stateFieldB_append st c r)
  · rw [hencode, encodeB_eq_append]

/-- The value of a byte by its Format B fields (R62). -/
theorem toNat_eq_fieldsB (b : Byte) :
    b.toNat = 128 * (stateFieldB b).toNat + 4 * (columnFieldB b).toNat + (rowFieldB b).toNat := by
  simp only [stateFieldB, columnFieldB, rowFieldB, BitVec.extractLsb'_toNat, Nat.shiftRight_eq_div_pow]
  omega

/-- Among the 128 bytes of one state field, the first 80 name a column in the grid and the other 48 do not. -/
theorem decode_b_column_bounds {b : Byte} {st : BitVec 1} (h : b &&& 0x80#8 = st ++ 0#7) :
    ((decode .b b).column.toNat < 20 ↔ b.toNat ≤ 128 * st.toNat + 79) ∧
      (20 ≤ (decode .b b).column.toNat ↔ 128 * st.toNat + 80 ≤ b.toNat ∧ b.toNat ≤ 128 * st.toNat + 127) := by
  have hbyte := toNat_eq_fieldsB b
  have hcolumn : (columnFieldB b).toNat < 32 := (columnFieldB b).isLt
  have hrow : (rowFieldB b).toNat < 4 := (rowFieldB b).isLt
  rw [(stateFieldB_eq_iff b st).mpr h] at hbyte
  rw [decode_b_column]
  omega

/-! ### The Variant B commands -/

/-- What a Variant B command that puts row w's LED in the given state says of row r (R66). -/
def rowSays (on : Bool) (w : BitVec 2) (r : Row) : Option Bool :=
  if r.val = w.toNat then some on else none

theorem ledbOff_says (c : BitVec 5) (w : BitVec 2) (r : Row) : (Instr.ledbOff c w).says r = rowSays false w r := rfl

theorem ledbOn_says (c : BitVec 5) (w : BitVec 2) (r : Row) : (Instr.ledbOn c w).says r = rowSays true w r := rfl

theorem rowSays_same {w : BitVec 2} {r : Row} (hr : r.val = w.toNat) (on : Bool) : rowSays on w r = some on :=
  if_pos hr

theorem rowSays_other {w : BitVec 2} {r : Row} (hr : r.val ≠ w.toNat) (on : Bool) : rowSays on w r = none :=
  if_neg hr

/-- A command of row w names no other row. -/
theorem rowSays_eq_some {w : BitVec 2} {r : Row} {on said : Bool} (h : rowSays on w r = some said) :
    r.val = w.toNat ∧ said = on := by
  by_cases hr : r.val = w.toNat
  · rw [rowSays_same hr] at h
    exact ⟨hr, Option.some.inj h.symm⟩
  · rw [rowSays_other hr] at h
    cases h

/-- A command that names its column and says this state of its row sets the row. -/
theorem setsRow_of_says {ctor : BitVec 5 → BitVec 2 → Instr} {on : Bool}
    (hcolumn : ∀ c w, (ctor c w).column = c) (hsays : ∀ c w r, (ctor c w).says r = rowSays on w r) :
    SetsRow ctor on := by
  intro s c w
  refine ⟨fun hc => ?_, fun k hk => ?_⟩
  · rw [exec_eq, commandResult_discards ((hcolumn c w).symm ▸ hc)]
  · have hk' : k.val = (ctor c w).column.toNat := by rw [hcolumn, hk]
    obtain ⟨hframe, hothers⟩ := commandResult_frame (ctor c w) s
    refine ⟨commandResult (ctor c w) s, exec_eq _ s, ?_, fun q hq => ?_, fun d hd => ?_, hframe, fun hheld => ?_⟩
    · exact commandResult_bit_said (r := ⟨w.toNat, w.isLt⟩) hk' s ((hsays c w _).trans (rowSays_same rfl on))
    · exact commandResult_bit_unsaid hk' s ((hsays c w q).trans (rowSays_other hq on))
    · exact hothers d fun he => hd (Fin.ext (he.trans hk'.symm))
    · refine commandResult_eq_self hk' fun r said hsaid => ?_
      rw [hsays] at hsaid
      obtain ⟨hr, rfl⟩ := rowSays_eq_some hsaid
      rw [hr, hheld]

/-- Settles O16: the opcode by the decoder, the effect by what the command says of its row, the byte ranges by the value
of the fields, the examples by its write. -/
theorem ledbOffDarkensItsLed : Obligations.LedbOffDarkensItsLed := by
  unfold Obligations.LedbOffDarkensItsLed
  have h05 : decode .b 0x05#8 = .ledbOff 1 1 := by decide
  exact ⟨formatB_of_stateField (fun _ => decode_ledbOff) (fun _ _ => rfl),
    setsRow_of_says (fun _ _ => rfl) ledbOff_says, by decide, by decide,
    fun _ => decode_b_column_bounds (st := 0b0#1),
    byteTakes_of_decode h05 rfl (by decide), byteTakes_of_decode h05 rfl (by decide)⟩

/-- Settles O17: like O16, with the LED said on. -/
theorem ledbOnLightsItsLed : Obligations.LedbOnLightsItsLed := by
  unfold Obligations.LedbOnLightsItsLed
  have h85 : decode .b 0x85#8 = .ledbOn 1 1 := by decide
  exact ⟨formatB_of_stateField (fun _ => decode_ledbOn) (fun _ _ => rfl),
    setsRow_of_says (fun _ _ => rfl) ledbOn_says, by decide, by decide,
    fun _ => decode_b_column_bounds (st := 0b1#1),
    byteTakes_of_decode h85 rfl (by decide), byteTakes_of_decode h85 rfl (by decide)⟩

end Sys2Proof.Proofs
end

section
/-! SUPPORT. Proofs about the Scan Engine: what the five steps of a tick leave in the trace and in each register (R101 to
R105), what a byte leaves alone, and the self-test window over a run (R112). -/

namespace Sys2Proof.Proofs

open Sys2Proof.Machine Sys2Proof.Claims

/-! ### One tick -/

theorem countdown_eq_zero_iff (s : State) : s.countdown = 0#16 ↔ s.countdown.toNat = 0 :=
  BitVec.toNat_inj.symm

/-- R101 and R103 in the trace: blank rows under the old column, then blank rows under the new one. -/
theorem onTick_trace (s : State) :
    ∃ more, (onTick s).trace = s.trace ++ (allOff s.cfg.rowOnLevel, s.colOut) ::
      (allOff s.cfg.rowOnLevel, (onTick s).colOut) :: more := by
  by_cases h : s.countdown = 0#16
  · rw [onTick_closed h]; exact ⟨_, rfl⟩
  · rw [onTick_open h]; exact ⟨_, rfl⟩

/-- R104: with the window closed the tick ends with the stored entry on the rows. -/
theorem onTick_rowOut_closed {s : State} (h : s.countdown = 0#16) :
    (onTick s).rowOut = memRead s (onTick s).cursor := by
  rw [onTick_closed h]

/-- R105: COUNTDOWN goes down by one and stays at zero. -/
theorem onTick_countdown_toNat (s : State) : (onTick s).countdown.toNat = s.countdown.toNat - 1 := by
  by_cases h : s.countdown = 0#16
  · rw [onTick_closed h]; simp [h]
  · rw [onTick_open h]
    exact BitVec.toNat_sub_of_le (Nat.pos_of_ne_zero ((countdown_eq_zero_iff s).not.mp h))

theorem onTick_cursor (s : State) : (onTick s).cursor = nextColumn s.cursor := by
  obtain ⟨-, -, -, hcursor, -⟩ := onTick_common s
  exact hcursor

theorem onTick_rss (s : State) : (onTick s).rss = s.rss := by
  obtain ⟨-, hrss, -, -, -⟩ := onTick_common s
  exact hrss

theorem onTick_colOut (s : State) : (onTick s).colOut = colTab (onTick s).cursor := by
  obtain ⟨-, -, -, hcursor, hcol⟩ := onTick_common s
  rw [hcursor, hcol]

/-- R103: a tick leaves the line of CURSOR active, and no other. -/
theorem onTick_colOut_bit (s : State) (c : Column) :
    (onTick s).colOut.getLsbD c.val = !decide (c = (onTick s).cursor) := by
  rw [onTick_colOut, colTab_bit]

theorem step_tick {s : State} {rest : List Event} (h : Next .tick rest s) :
    step s = .next (onTick { s with input := rest }) :=
  step_event h

/-! ### What a byte leaves alone -/

/-- A received byte changes nothing but the store, error flag or not. -/
theorem eventResult_rx_frame (b : Byte) (err : Bool) (s : State) :
    eventResult (.rx b err) s = { s with rss := (eventResult (.rx b err) s).rss } := by
  cases err with
  | true => rfl
  | false => exact (commandResult_frame (decode s.cfg.variant b) s).1

theorem eventResult_rx_cursor (b : Byte) (err : Bool) (s : State) : (eventResult (.rx b err) s).cursor = s.cursor := by
  rw [eventResult_rx_frame]

theorem eventResult_rx_countdown (b : Byte) (err : Bool) (s : State) :
    (eventResult (.rx b err) s).countdown = s.countdown := by
  rw [eventResult_rx_frame]

/-- R102: an event that is neither a tick nor a reset leaves CURSOR. -/
theorem eventResult_cursor {e : Event} (htick : e ≠ .tick) (hreset : e ≠ .reset) (s : State) :
    (eventResult e s).cursor = s.cursor := by
  cases e with
  | reset => exact absurd rfl hreset
  | tick => exact absurd rfl htick
  | rx b err => exact eventResult_rx_cursor b err s

/-! ### The statements about one tick -/

/-- Settles O25: the first pair of `onTick_trace`. -/
theorem tickBlanksFirst : Obligations.TickBlanksFirst := by
  unfold Obligations.TickBlanksFirst
  intro s rest hnext
  obtain ⟨more, htrace⟩ := onTick_trace { s with input := rest }
  exact ⟨_, _, step_tick hnext, htrace⟩

/-- Settles O26: the tick by the cursor it sets, the other events by what they leave alone. -/
theorem tickAdvancesCursorCyclically : Obligations.TickAdvancesCursorCyclically := by
  unfold Obligations.TickAdvancesCursorCyclically
  constructor
  · intro s rest hnext
    have hcursor : (onTick { s with input := rest }).cursor.val = (s.cursor.val + 1) % 20 :=
      congrArg Fin.val (onTick_cursor _)
    exact ⟨_, step_tick hnext, hcursor, by omega, by omega⟩
  · intro s t hstep hnoTick hnoReset
    obtain ⟨-, rfl⟩ | ⟨e, rest, hin, rfl⟩ := step_cases hstep
    · rfl
    · rw [hin, List.head?_cons] at hnoTick hnoReset
      exact eventResult_cursor (fun h => hnoTick (congrArg some h)) (fun h => hnoReset (congrArg some h)) _

/-- Settles O27: the second pair of `onTick_trace`, and the one-cold pattern it selects. -/
theorem tickSelectsExactlyOneColumn : Obligations.TickSelectsExactlyOneColumn := by
  unfold Obligations.TickSelectsExactlyOneColumn
  intro s rest hnext
  obtain ⟨more, htrace⟩ := onTick_trace { s with input := rest }
  exact ⟨_, _, more, step_tick hnext, htrace, onTick_colOut _, onTick_colOut_bit _⟩

/-- Settles O28: the window open and closed, each by what the tick does to the rows and to COUNTDOWN. -/
theorem selfTestOverridesRowsAndCountsDown : Obligations.SelfTestOverridesRowsAndCountsDown := by
  unfold Obligations.SelfTestOverridesRowsAndCountsDown
  intro s rest hnext
  have hcount : (onTick { s with input := rest }).countdown.toNat = s.countdown.toNat - 1 :=
    onTick_countdown_toNat _
  refine ⟨_, step_tick hnext, onTick_rss _, fun hopen => ⟨?_, by omega⟩, fun hclosed => ⟨?_, ?_⟩⟩
  · have hne : s.countdown ≠ 0#16 := (countdown_eq_zero_iff s).not.mpr hopen.ne'
    exact onTick_rowOut_open (s := { s with input := rest }) hne
  · exact onTick_rowOut_closed (s := { s with input := rest }) hclosed
  · rw [countdown_eq_zero_iff, hcount, hclosed]
    rfl

/-! ### The self-test window over a run -/

theorem ticksIn_cons_tick (es : List Event) : ticksIn (.tick :: es) = ticksIn es + 1 :=
  List.countP_cons_of_pos rfl

theorem ticksIn_cons_rx (b : Byte) (err : Bool) (es : List Event) : ticksIn (.rx b err :: es) = ticksIn es :=
  List.countP_cons_of_neg (by simp)

theorem noReset_cons {e : Event} {es : List Event} : noReset (e :: es) = true ↔ e ≠ .reset ∧ noReset es = true := by
  simp [noReset]

/-- COUNTDOWN counts the ticks of a sequence without reset, whatever bytes come between, and stays at zero. -/
theorem runResult_countdown_toNat {es : List Event} (h : noReset es = true) (s : State) :
    (runResult es s).countdown.toNat = s.countdown.toNat - ticksIn es := by
  induction es generalizing s with
  | nil => rfl
  | cons e es ih =>
    obtain ⟨he, hes⟩ := noReset_cons.mp h
    rw [runResult_cons, ih hes]
    cases e with
    | reset => exact absurd rfl he
    | tick =>
      have hcount : (eventResult .tick s).countdown.toNat = s.countdown.toNat - 1 := onTick_countdown_toNat s
      rw [hcount, ticksIn_cons_tick]
      omega
    | rx b err => rw [eventResult_rx_countdown, ticksIn_cons_rx]

/-- A run that ends in a tick ends in the state that tick leaves. -/
theorem process_concat_tick (es : List Event) (s : State) :
    process (es ++ [.tick]) s = .next (onTick (runResult es s)) := by
  rw [process_eq, runResult_append]
  rfl

/-- Settles O38: COUNTDOWN before the last tick is 1000 less the ticks so far, and decides what that tick renders. -/
theorem selfTestWindowIsThousandTicks : Obligations.SelfTestWindowIsThousandTicks := by
  unfold Obligations.SelfTestWindowIsThousandTicks
  intro cfg es hticks hnoReset
  refine ⟨_, process_concat_tick es _, ?_⟩
  have hbefore : (runResult es (State.resetOf cfg)).countdown.toNat = 1000 - ticksIn es := by
    rw [runResult_countdown_toNat hnoReset, resetOf_countdown, hticks]
    rfl
  have hcfg : (runResult es (State.resetOf cfg)).cfg = cfg := runResult_cfg es _
  generalize runResult es (State.resetOf cfg) = s at hbefore hcfg ⊢
  have hafter := onTick_countdown_toNat s
  refine ⟨fun hwindow => ⟨?_, by omega⟩, fun hlater => ⟨?_, ?_⟩, onTick_colOut_bit s⟩
  · have hne : s.countdown ≠ 0#16 := (countdown_eq_zero_iff s).not.mpr (by omega)
    rw [onTick_rowOut_open hne, hcfg]
  · have hclosed : s.countdown = 0#16 := (countdown_eq_zero_iff s).mpr (by omega)
    rw [onTick_rowOut_closed hclosed]
    exact memRead_congr (onTick_rss s).symm _
  · exact (countdown_eq_zero_iff _).mpr (by omega)

end Sys2Proof.Proofs
end

section
/-! SUPPORT. Proofs about the round trip of the encoding: the encoder writes the fields the decoder reads (R71), and the
decoder's fields put together again are the byte. -/

namespace Sys2Proof.Proofs

open Sys2Proof.Machine Sys2Proof.Claims

theorem columnFieldA_append (st : BitVec 2) (c : BitVec 5) (g : BitVec 1) : columnFieldA (st ++ c ++ g) = c := by
  revert st c g; decide

theorem groupFieldA_append (st : BitVec 2) (c : BitVec 5) (g : BitVec 1) : groupFieldA (st ++ c ++ g) = g := by
  revert st c g; decide

theorem columnFieldB_append (st : BitVec 1) (c : BitVec 5) (r : BitVec 2) : columnFieldB (st ++ c ++ r) = c := by
  revert st c r; decide

theorem rowFieldB_append (st : BitVec 1) (c : BitVec 5) (r : BitVec 2) : rowFieldB (st ++ c ++ r) = r := by
  revert st c r; decide

/-- A Variant A command decodes from its encoding once the decoder answers with it for its state field. -/
theorem decode_encodeA {ctor : BitVec 5 → BitVec 1 → Instr} {st : BitVec 2}
    (hdecode : ∀ b, stateFieldA b = st → decode .a b = ctor (columnFieldA b) (groupFieldA b))
    (c : BitVec 5) (g : BitVec 1) : decode .a (encodeA st c g) = ctor c g := by
  rw [encodeA_eq_append, hdecode _ (stateFieldA_append st c g), columnFieldA_append, groupFieldA_append]

/-- A Variant B command, likewise. -/
theorem decode_encodeB {ctor : BitVec 5 → BitVec 2 → Instr} {st : BitVec 1}
    (hdecode : ∀ b, stateFieldB b = st → decode .b b = ctor (columnFieldB b) (rowFieldB b))
    (c : BitVec 5) (r : BitVec 2) : decode .b (encodeB st c r) = ctor c r := by
  rw [encodeB_eq_append, hdecode _ (stateFieldB_append st c r), columnFieldB_append, rowFieldB_append]

/-- An instruction's own variant decodes it from its encoding. -/
theorem decode_encode (i : Instr) : decode i.variant (encode i) = i := by
  cases i with
  | ledaOff c g => exact decode_encodeA (fun _ => decode_ledaOff) c g
  | ledaPri c g => exact decode_encodeA (fun _ => decode_ledaPri) c g
  | ledaSec c g => exact decode_encodeA (fun _ => decode_ledaSec) c g
  | ledaBoth c g => exact decode_encodeA (fun _ => decode_ledaBoth) c g
  | ledbOff c r => exact decode_encodeB (fun _ => decode_ledbOff) c r
  | ledbOn c r => exact decode_encodeB (fun _ => decode_ledbOn) c r

theorem wellFormed_iff (v : Variant) (i : Instr) : i.wellFormed v = true ↔ i.variant = v :=
  beq_iff_eq

/-- Settles O3: by `decode_encode`, since a well-formed instruction is one of its own variant. -/
theorem decodeOfEncodeIsTheInstruction : Obligations.DecodeOfEncodeIsTheInstruction := by
  unfold Obligations.DecodeOfEncodeIsTheInstruction
  intro v i rest hwf
  obtain rfl := (wellFormed_iff v i).mp hwf
  rw [decodeBytes, decode_encode]

/-- The three fields of Format A, put together again (R63). -/
theorem encodeA_fields (b : Byte) : encodeA (stateFieldA b) (columnFieldA b) (groupFieldA b) = b := by
  revert b; decide

/-- The three fields of Format B, put together again (R64). -/
theorem encodeB_fields (b : Byte) : encodeB (stateFieldB b) (columnFieldB b) (rowFieldB b) = b := by
  revert b; decide

theorem encode_decode (v : Variant) (b : Byte) : encode (decode v b) = b := by
  cases v with
  | a =>
    have hfields := encodeA_fields b
    obtain h | h | h | h := stateFieldA_cases b <;> rw [h] at hfields
    · rw [decode_ledaOff h]; exact hfields
    · rw [decode_ledaPri h]; exact hfields
    · rw [decode_ledaSec h]; exact hfields
    · rw [decode_ledaBoth h]; exact hfields
  | b =>
    have hfields := encodeB_fields b
    obtain h | h := stateFieldB_cases b <;> rw [h] at hfields
    · rw [decode_ledbOff h]; exact hfields
    · rw [decode_ledbOn h]; exact hfields

/-- Settles O4: the decoder answers with its own variant, and its fields make the byte. -/
theorem encodeOfDecodeIsTheByte : Obligations.EncodeOfDecodeIsTheByte := by
  unfold Obligations.EncodeOfDecodeIsTheByte
  exact fun v b => ⟨(wellFormed_iff v _).mpr (decode_variant v b), encode_decode v b⟩

/-- Settles O2: seven closed words, decoded. -/
theorem specWordsDecode : Obligations.SpecWordsDecode := by
  unfold Obligations.SpecWordsDecode
  decide

/-! ### The step on a byte -/

/-- Settles O7: the step runs what the decoder answers for the byte. -/
theorem stepRunsTheDecodedInstruction : Obligations.StepRunsTheDecodedInstruction := by
  unfold Obligations.StepRunsTheDecodedInstruction
  intro s b i rest hnext hdecode _
  have hi : decode s.cfg.variant b = i := congrArg Prod.fst (Except.ok.inj hdecode)
  rw [step_rx hnext, hi]

/-- What a block reads from an 8-bit table word is the word's byte, decoded. -/
theorem decodeWordOf_eight (v : Variant) (w : Nat) : decodeWordOf v 8 w = some (decode v (BitVec.ofNat 8 w)) := rfl

/-- Settles O8: the word is presented as its one byte, and the step runs what that byte decodes to. -/
theorem fetchedWordRunsAfterReset : Obligations.FetchedWordRunsAfterReset := by
  unfold Obligations.FetchedWordRunsAfterReset
  intro w i hdecode
  have hnext : Next (.rx (BitVec.ofNat 8 w) false) [] (State.reset.withFetchWord 8 w) := rfl
  have hi : decode Config.standard.variant (BitVec.ofNat 8 w) = i :=
    Option.some.inj ((decodeWordOf_eight _ w).symm.trans hdecode)
  rw [step_rx hnext, ← hi]
  rfl

/-- Settles O9: the two cases of a step, on a byte in error and on an empty input. -/
theorem errorByteAndIdleChangeNothing : Obligations.ErrorByteAndIdleChangeNothing := by
  unfold Obligations.ErrorByteAndIdleChangeNothing
  exact ⟨fun s b rest hnext => step_event hnext, fun s hin => step_idle hin⟩

end Sys2Proof.Proofs
end

section
/-! SUPPORT. Proofs about the commands taken together: the frame of all six (R80, R90), idempotence, the last write, the
order of two commands (R85, R93), and the values an entry can be brought to (R21). A command is its rows: everything
here follows from what it says of each row of each column. -/

namespace Sys2Proof.Proofs

open Sys2Proof.Machine Sys2Proof.Claims

/-! ### A command, bit by bit -/

/-- What the command says of row r of column d: nothing unless d is its own column. -/
def saysAt (i : Instr) (d : Column) (r : Row) : Option Bool :=
  if d.val = i.column.toNat then i.says r else none

theorem saysAt_own {i : Instr} {k : Column} (hk : k.val = i.column.toNat) (r : Row) : saysAt i k r = i.says r :=
  if_pos hk

theorem saysAt_other {i : Instr} {d : Column} (hd : d.val ≠ i.column.toNat) (r : Row) : saysAt i d r = none :=
  if_neg hd

/-- Every bit of the store after a command: what the command says of it, else what it was. -/
theorem commandResult_bit (i : Instr) (s : State) (d : Column) (r : Row) :
    (memRead (commandResult i s) d).getLsbD r.val =
      (saysAt i d r).elim ((memRead s d).getLsbD r.val) (· == s.cfg.rowOnLevel) := by
  by_cases hd : d.val = i.column.toNat
  · rw [saysAt_own hd, memRead_commandResult hd, commandWrite_bit]
  · rw [saysAt_other hd, (commandResult_frame i s).2 d hd, Option.elim_none]

@[simp] theorem commandResult_cfg (i : Instr) (s : State) : (commandResult i s).cfg = s.cfg := by
  rw [(commandResult_frame i s).1]

/-- Two changes of the store alone make one. -/
theorem storeOnly_trans {s t u : State} (ht : t = { s with rss := t.rss }) (hu : u = { t with rss := u.rss }) :
    u = { s with rss := u.rss } :=
  hu.trans (by rw [ht])

/-- Two commands, one after the other, change the store alone. -/
theorem commandResult_frame_two (i j : Instr) (s : State) :
    commandResult j (commandResult i s) = { s with rss := (commandResult j (commandResult i s)).rss } :=
  storeOnly_trans (commandResult_frame i s).1 (commandResult_frame j _).1

/-- Stores with the same bits are the same. -/
theorem rss_eq_of_bits {t u : State}
    (h : ∀ (d : Column) (r : Row), (memRead t d).getLsbD r.val = (memRead u d).getLsbD r.val) : t.rss = u.rss :=
  rss_ext fun d => entry_ext (h d)

/-- States that differ from s in the store alone are the same when their stores have the same bits. -/
theorem state_eq_of_bits {s t u : State} (ht : t = { s with rss := t.rss }) (hu : u = { s with rss := u.rss })
    (h : ∀ (d : Column) (r : Row), (memRead t d).getLsbD r.val = (memRead u d).getLsbD r.val) : t = u := by
  rw [ht, hu, rss_eq_of_bits h]

/-- The store after a command depends on the store and the parameters before it only. -/
theorem commandResult_rss_congr (i : Instr) {s u : State} (hrss : s.rss = u.rss) (hcfg : s.cfg = u.cfg) :
    (commandResult i s).rss = (commandResult i u).rss :=
  rss_eq_of_bits fun d r => by rw [commandResult_bit, commandResult_bit, memRead_congr hrss, hcfg]

/-- Settles O18: the frame of a command, and its effect bit by bit. -/
theorem commandsWriteOnlyTheirLed : Obligations.CommandsWriteOnlyTheirLed := by
  unfold Obligations.CommandsWriteOnlyTheirLed
  intro i s
  refine ⟨_, exec_eq i s, (commandResult_frame i s).1, fun d r => ?_⟩
  have hbit := commandResult_bit i s d r
  unfold saysAt at hbit
  generalize (if d.val = i.column.toNat then i.says r else none) = said at hbit ⊢
  rw [hbit]
  cases said <;> rfl

/-- Settles O19: out of the grid a command is a discard. -/
theorem outOfGridCommandIsDiscarded : Obligations.OutOfGridCommandIsDiscarded := by
  unfold Obligations.OutOfGridCommandIsDiscarded
  intro i s hcol
  rw [exec_eq, commandResult_discards hcol]

/-! ### Two commands -/

/-- A later command that says something of every row the earlier one says something of decides alone. -/
theorem commandResult_last_wins {i j : Instr}
    (h : ∀ (d : Column) (r : Row), saysAt j d r = none → saysAt i d r = none) (s : State) :
    commandResult j (commandResult i s) = commandResult j s :=
  state_eq_of_bits (commandResult_frame_two i j s) (commandResult_frame j s).1 fun d r => by
    simp only [commandResult_bit, commandResult_cfg]
    cases hj : saysAt j d r with
    | none => rw [h d r hj]; rfl
    | some on => rfl

/-- Commands that say nothing of a common row commute. -/
theorem commandResult_comm {i j : Instr}
    (h : ∀ (d : Column) (r : Row), saysAt i d r = none ∨ saysAt j d r = none) (s : State) :
    commandResult j (commandResult i s) = commandResult i (commandResult j s) :=
  state_eq_of_bits (commandResult_frame_two i j s) (commandResult_frame_two j i s) fun d r => by
    simp only [commandResult_bit, commandResult_cfg]
    obtain hnone | hnone := h d r <;> simp [hnone]

/-- A store that already holds what the command says stays as it was, and the machine with it. -/
theorem commandResult_eq_self_of_held {i : Instr} {s : State}
    (hheld : ∀ (d : Column) (r : Row) (on : Bool), saysAt i d r = some on →
      (memRead s d).getLsbD r.val = (on == s.cfg.rowOnLevel)) : commandResult i s = s :=
  state_eq_of_bits (commandResult_frame i s).1 rfl fun d r => by
    rw [commandResult_bit]
    cases hi : saysAt i d r with
    | none => rfl
    | some on => exact (hheld d r on hi).symm

/-- Settles O20: a command is a later write to its own rows. -/
theorem commandTwiceIsCommandOnce : Obligations.CommandTwiceIsCommandOnce := by
  unfold Obligations.CommandTwiceIsCommandOnce
  intro i s t hexec
  rw [exec_eq] at hexec ⊢
  injection hexec with ht
  rw [← ht, commandResult_last_wins fun _ _ h => h]

/-! ### The LED a command names -/

/-- How many LEDs a column has in the address space of a variant (R41, R42). -/
def ledsPerColumn : Variant → Nat
  | .a => 2
  | .b => 4

/-- The LED of its column that a row belongs to: the group of two rows (R41), or the row itself (R42). -/
def ledOfRow : Variant → Row → Nat
  | .a, r => r.val / 2
  | .b, r => r.val

/-- The LED of its column that a command names. -/
def ledIndex : Instr → Nat
  | .ledaOff _ g => g.toNat
  | .ledaPri _ g => g.toNat
  | .ledaSec _ g => g.toNat
  | .ledaBoth _ g => g.toNat
  | .ledbOff _ w => w.toNat
  | .ledbOn _ w => w.toNat

/-- A command speaks of the rows of the LED it names. -/
theorem says_eq_none_iff (i : Instr) (r : Row) : i.says r = none ↔ ledOfRow i.variant r ≠ ledIndex i := by
  cases i <;> simp [Instr.says, Instr.variant, ledOfRow, ledIndex]

theorem saysAt_eq_none_iff (i : Instr) (d : Column) (r : Row) :
    saysAt i d r = none ↔ d.val = i.column.toNat → ledOfRow i.variant r ≠ ledIndex i := by
  rw [← says_eq_none_iff]
  unfold saysAt
  split <;> simp [*]

theorem ledIndex_lt (i : Instr) : ledIndex i < ledsPerColumn i.variant := by
  cases i with
  | ledaOff _ g => exact g.isLt
  | ledaPri _ g => exact g.isLt
  | ledaSec _ g => exact g.isLt
  | ledaBoth _ g => exact g.isLt
  | ledbOff _ w => exact w.isLt
  | ledbOn _ w => exact w.isLt

theorem toNat_addressA (c : BitVec 5) (g : BitVec 1) : ((c ++ g).zeroExtend 7).toNat = c.toNat * 2 + g.toNat := by
  revert c g; decide

theorem toNat_addressB (c : BitVec 5) (w : BitVec 2) : (c ++ w).toNat = c.toNat * 4 + w.toNat := by
  revert c w; decide

/-- The LED address counts the LEDs column by column (R41, R42). -/
theorem ledAddress_toNat (i : Instr) :
    i.ledAddress.toNat = i.column.toNat * ledsPerColumn i.variant + ledIndex i := by
  cases i with
  | ledaOff c g => exact toNat_addressA c g
  | ledaPri c g => exact toNat_addressA c g
  | ledaSec c g => exact toNat_addressA c g
  | ledaBoth c g => exact toNat_addressA c g
  | ledbOff c w => exact toNat_addressB c w
  | ledbOn c w => exact toNat_addressB c w

/-- An LED address of a variant is a column and an LED of that column, and no other pair. -/
theorem ledAddress_eq_iff {i j : Instr} (hv : i.variant = j.variant) :
    i.ledAddress = j.ledAddress ↔ i.column = j.column ∧ ledIndex i = ledIndex j := by
  have hi := ledAddress_toNat i
  have hj := ledAddress_toNat j
  have hilt := ledIndex_lt i
  have hjlt := ledIndex_lt j
  rw [hv] at hi hilt
  rw [← BitVec.toNat_inj, ← BitVec.toNat_inj, hi, hj]
  cases hjv : j.variant <;> simp only [hjv, ledsPerColumn] at hilt hjlt ⊢ <;> omega

/-- Settles O21: two commands to one LED speak of the same rows. -/
theorem lastCommandToAnLedWins : Obligations.LastCommandToAnLedWins := by
  unfold Obligations.LastCommandToAnLedWins
  intro i j s t hv hled hexec
  obtain ⟨hcol, hindex⟩ := (ledAddress_eq_iff hv).mp hled
  rw [exec_eq] at hexec
  injection hexec with ht
  rw [← ht, exec_eq, exec_eq, commandResult_last_wins fun d r hj => ?_]
  rw [saysAt_eq_none_iff] at hj ⊢
  rwa [hv, hcol, hindex]

/-- Settles O22: two commands to different LEDs speak of no common row. -/
theorem commandsToDifferentLedsCommute : Obligations.CommandsToDifferentLedsCommute := by
  unfold Obligations.CommandsToDifferentLedsCommute
  intro i j s hv hled
  refine ⟨_, _, _, exec_eq i s, exec_eq j _, exec_eq j s, ?_⟩
  rw [exec_eq, commandResult_comm fun d r => ?_]
  by_contra hboth
  obtain ⟨⟨hdj, hj⟩, hdi, hi⟩ :
      (d.val = j.column.toNat ∧ ledOfRow j.variant r = ledIndex j) ∧
        d.val = i.column.toNat ∧ ledOfRow i.variant r = ledIndex i := by
    simpa only [saysAt_eq_none_iff, not_or, Classical.not_imp, not_not] using hboth
  refine hled ((ledAddress_eq_iff hv).mpr ⟨BitVec.eq_of_toNat_eq (hdi.symm.trans hdj), ?_⟩)
  rw [← hi, ← hj, hv]

/-- Settles O23: LEDB.OFF overrides LEDB.ON at the same LED, and alone it has nothing to change. -/
theorem onThenOffRestoresADarkLed : Obligations.OnThenOffRestoresADarkLed := by
  unfold Obligations.OnThenOffRestoresADarkLed
  intro s t c w hdark hexec
  rw [exec_eq] at hexec
  injection hexec with ht
  have hsame : ∀ (d : Column) (r : Row), saysAt (.ledbOff c w) d r = none → saysAt (.ledbOn c w) d r = none :=
    fun d r hoff => (saysAt_eq_none_iff _ d r).mpr ((saysAt_eq_none_iff (.ledbOff c w) d r).mp hoff)
  rw [exec_eq, ← ht, commandResult_last_wins hsame, commandResult_eq_self_of_held fun d r on hsaid => ?_]
  by_cases hd : d.val = c.toNat
  · rw [saysAt_own hd, ledbOff_says] at hsaid
    obtain ⟨hr, rfl⟩ := rowSays_eq_some hsaid
    rw [hr, hdark d hd, Bool.false_beq]
  · rw [saysAt_other hd] at hsaid
    cases hsaid

/-! ### Bringing an entry to a value -/

/-- The state a list of commands leaves. -/
def commandsResult (cs : List Instr) (s : State) : State := cs.foldl (fun s i => commandResult i s) s

@[simp] theorem commandsResult_nil (s : State) : commandsResult [] s = s := rfl

@[simp] theorem commandsResult_cons (i : Instr) (cs : List Instr) (s : State) :
    commandsResult (i :: cs) s = commandsResult cs (commandResult i s) := rfl

/-- A command of the block's own variant, as its byte. -/
theorem eventResult_encode {i : Instr} {s : State} (h : i.variant = s.cfg.variant) :
    eventResult (.rx (encode i) false) s = commandResult i s := by
  change commandResult (decode s.cfg.variant (encode i)) s = _
  rw [← h, decode_encode]

/-- A sequence of commands of the block's own variant, as its bytes. -/
theorem runResult_encode {cs : List Instr} {s : State} (h : ∀ i ∈ cs, i.variant = s.cfg.variant) :
    runResult ((cs.map encode).map fun b => Event.rx b false) s = commandsResult cs s := by
  induction cs generalizing s with
  | nil => rfl
  | cons i cs ih =>
    obtain ⟨hi, hcs⟩ := List.forall_mem_cons.mp h
    rw [List.map_cons, List.map_cons, runResult_cons, eventResult_encode hi, ih (by rwa [commandResult_cfg]),
      commandsResult_cons]

/-- Commands of which each says x of a bit, or nothing, leave it at x once one of them speaks or it was x before. -/
theorem commandsResult_bit {cs : List Instr} {s : State} {d : Column} {r : Row} {x : Bool}
    (hagree : ∀ i ∈ cs, ∀ on, saysAt i d r = some on → (on == s.cfg.rowOnLevel) = x)
    (hspoken : (∃ i ∈ cs, saysAt i d r ≠ none) ∨ (memRead s d).getLsbD r.val = x) :
    (memRead (commandsResult cs s) d).getLsbD r.val = x := by
  induction cs generalizing s with
  | nil => simpa using hspoken
  | cons i cs ih =>
    obtain ⟨hfirst, hrest⟩ := List.forall_mem_cons.mp hagree
    rw [commandsResult_cons]
    refine ih (by rwa [commandResult_cfg]) ?_
    rw [commandResult_bit]
    cases hi : saysAt i d r with
    | some on => exact .inr (hfirst on hi)
    | none =>
      obtain ⟨j, hj, hsays⟩ | hbit := hspoken
      · obtain rfl | hj := List.mem_cons.mp hj
        · exact absurd hi hsays
        · exact .inl ⟨j, hj, hsays⟩
      · exact .inr hbit

/-- The Variant A command that says of the two rows of group g what `on` does. -/
def groupCommand (c : BitVec 5) (on : Row → Bool) (g : Fin 2) : Instr :=
  match on ⟨2 * g.val + 1, by omega⟩, on ⟨2 * g.val, by omega⟩ with
  | false, false => .ledaOff c (.ofFin g)
  | false, true => .ledaPri c (.ofFin g)
  | true, false => .ledaSec c (.ofFin g)
  | true, true => .ledaBoth c (.ofFin g)

/-- The Variant B command that says of row r what `on` does. -/
def rowCommand (c : BitVec 5) (on : Row → Bool) (r : Row) : Instr :=
  if on r then .ledbOn c (.ofFin r) else .ledbOff c (.ofFin r)

/-- Commands of a variant that say of every row of column c what `on` does: one an LED. -/
def columnCommands (c : BitVec 5) (on : Row → Bool) : Variant → List Instr
  | .a => (List.finRange 2).map (groupCommand c on)
  | .b => (List.finRange 4).map (rowCommand c on)

/-- A group command says what `on` does of its two rows, and nothing else. -/
theorem groupCommand_spec (c : BitVec 5) (on : Row → Bool) (g : Fin 2) :
    (groupCommand c on g).variant = .a ∧ (groupCommand c on g).column = c ∧
      ∀ r, (groupCommand c on g).says r =
        groupSays (on ⟨2 * g.val + 1, by omega⟩) (on ⟨2 * g.val, by omega⟩) (.ofFin g) r := by
  unfold groupCommand
  cases on ⟨2 * g.val + 1, by omega⟩ <;> cases on ⟨2 * g.val, by omega⟩
  · exact ⟨rfl, rfl, ledaOff_says c _⟩
  · exact ⟨rfl, rfl, ledaPri_says c _⟩
  · exact ⟨rfl, rfl, ledaSec_says c _⟩
  · exact ⟨rfl, rfl, ledaBoth_says c _⟩

theorem rowCommand_spec (c : BitVec 5) (on : Row → Bool) (w : Row) :
    (rowCommand c on w).variant = .b ∧ (rowCommand c on w).column = c ∧
      ∀ r, (rowCommand c on w).says r = rowSays (on w) (.ofFin w) r := by
  unfold rowCommand
  cases on w
  · exact ⟨rfl, rfl, ledbOff_says c _⟩
  · exact ⟨rfl, rfl, ledbOn_says c _⟩

theorem columnCommands_operands {c : BitVec 5} {on : Row → Bool} {v : Variant} {i : Instr}
    (hi : i ∈ columnCommands c on v) : i.variant = v ∧ i.column = c := by
  cases v with
  | a =>
    obtain ⟨g, -, rfl⟩ := List.mem_map.mp hi
    obtain ⟨hv, hc, -⟩ := groupCommand_spec c on g
    exact ⟨hv, hc⟩
  | b =>
    obtain ⟨w, -, rfl⟩ := List.mem_map.mp hi
    obtain ⟨hv, hc, -⟩ := rowCommand_spec c on w
    exact ⟨hv, hc⟩

/-- Whatever one of the commands says of a row is what `on` does. -/
theorem columnCommands_says {c : BitVec 5} {on : Row → Bool} {v : Variant} {i : Instr} {r : Row} {x : Bool}
    (hi : i ∈ columnCommands c on v) (hsays : i.says r = some x) : x = on r := by
  cases v with
  | a =>
    obtain ⟨g, -, rfl⟩ := List.mem_map.mp hi
    obtain ⟨-, -, hspec⟩ := groupCommand_spec c on g
    rw [hspec] at hsays
    obtain ⟨hr, rfl⟩ | ⟨hr, rfl⟩ := groupSays_eq_some hsays
    · exact congrArg on (Fin.ext hr.symm)
    · exact congrArg on (Fin.ext hr.symm)
  | b =>
    obtain ⟨w, -, rfl⟩ := List.mem_map.mp hi
    obtain ⟨-, -, hspec⟩ := rowCommand_spec c on w
    rw [hspec] at hsays
    obtain ⟨hr, rfl⟩ := rowSays_eq_some hsays
    exact congrArg on (Fin.ext hr.symm)

/-- Every row is spoken of by one of the commands. -/
theorem columnCommands_speak (c : BitVec 5) (on : Row → Bool) (v : Variant) (r : Row) :
    ∃ i ∈ columnCommands c on v, i.says r ≠ none := by
  cases v with
  | a =>
    have hg : r.val / 2 < 2 := by omega
    obtain ⟨-, -, hspec⟩ := groupCommand_spec c on ⟨r.val / 2, hg⟩
    refine ⟨_, List.mem_map_of_mem (List.mem_finRange ⟨r.val / 2, hg⟩), ?_⟩
    rw [hspec]
    exact fun h => Option.some_ne_none _ ((if_pos rfl).symm.trans h)
  | b =>
    obtain ⟨-, -, hspec⟩ := rowCommand_spec c on r
    refine ⟨_, List.mem_map_of_mem (List.mem_finRange r), ?_⟩
    rw [hspec, rowSays_same rfl]
    exact Option.some_ne_none _

/-- The polarity taken twice is no change (R67). -/
theorem beq_level_twice (x level : Bool) : ((x == level) == level) = x := by
  cases x <;> cases level <;> rfl

/-- Whether the value's bit at a row stands for on (R67). -/
def standsForOn (level : Bool) (value : Entry) (r : Row) : Bool := value.getLsbD r.val == level

/-- Settles O24: the bytes of the commands that say of every row of the column what the value's bit there means. -/
theorem anyEntryValueIsReachable : Obligations.AnyEntryValueIsReachable := by
  unfold Obligations.AnyEntryValueIsReachable
  intro s k value
  have hk : k.val = (BitVec.ofNat 5 k.val).toNat := (Nat.mod_eq_of_lt (by omega)).symm
  generalize BitVec.ofNat 5 k.val = c at hk
  refine ⟨(columnCommands c (standsForOn s.cfg.rowOnLevel value) s.cfg.variant).map encode, _, process_eq _ s, ?_⟩
  rw [runResult_encode fun i hi => (columnCommands_operands hi).1]
  have hown {i : Instr} (hi : i ∈ columnCommands c (standsForOn s.cfg.rowOnLevel value) s.cfg.variant) (r : Row) :
      saysAt i k r = i.says r :=
    saysAt_own (hk.trans (congrArg BitVec.toNat (columnCommands_operands hi).2.symm)) r
  refine entry_ext fun r => commandsResult_bit (fun i hi x hx => ?_) (.inl ?_)
  · rw [hown hi] at hx
    rw [columnCommands_says hi hx, standsForOn, beq_level_twice]
  · obtain ⟨i, hi, hsays⟩ := columnCommands_speak c (standsForOn s.cfg.rowOnLevel value) s.cfg.variant r
    exact ⟨i, hi, (hown hi r).symm ▸ hsays⟩

end Sys2Proof.Proofs
end

section
/-! SUPPORT. Proofs about the tick as a whole: its exact next state (R106), the pairs it emits (R107), and a command that
lands between two of its steps (R52). -/

namespace Sys2Proof.Proofs

open Sys2Proof.Machine Sys2Proof.Claims

theorem onTick_cfg (s : State) : (onTick s).cfg = s.cfg := by
  obtain ⟨hcfg, -⟩ := onTick_common s
  exact hcfg

/-- Settles O29: the tick with the window open and closed. -/
theorem tickGivesTheNormativeState : Obligations.TickGivesTheNormativeState := by
  unfold Obligations.TickGivesTheNormativeState
  intro s rest hnext _ _ _
  refine ⟨_, step_tick hnext, fun hopen => ?_, fun hclosed => ?_⟩
  · have hne : s.countdown ≠ 0#16 := (countdown_eq_zero_iff s).not.mpr hopen.ne'
    exact onTick_open (s := { s with input := rest }) hne
  · have h0 : s.countdown = 0#16 := (countdown_eq_zero_iff s).mpr (Nat.eq_zero_of_not_pos hclosed)
    exact onTick_closed (s := { s with input := rest }) h0

/-! ### The pairs of a tick -/

/-- The pairs a tick emits: blank, select, drive, and in the self-test window the override (R101 to R106). -/
def tickPairs (s : State) : List LatchPair :=
  [(allOff s.cfg.rowOnLevel, s.colOut), (allOff s.cfg.rowOnLevel, colTab (nextColumn s.cursor)),
    (memRead s (nextColumn s.cursor), colTab (nextColumn s.cursor))] ++
  if s.countdown = 0#16 then [] else [(allOn s.cfg.rowOnLevel, colTab (nextColumn s.cursor))]

theorem onTick_trace_eq (s : State) : (onTick s).trace = s.trace ++ tickPairs s := by
  by_cases h : s.countdown = 0#16
  · rw [onTick_closed h, tickPairs, if_pos h, List.append_nil]
  · rw [onTick_open h, tickPairs, if_neg h]; rfl

/-- The last pair of a tick is its rendered value (R108). -/
theorem tickPairs_getLast? (s : State) : (tickPairs s).getLast? = some (latches (onTick s)) := by
  by_cases h : s.countdown = 0#16
  · rw [onTick_closed h, tickPairs, if_pos h]; rfl
  · rw [onTick_open h, tickPairs, if_neg h]; rfl

theorem mergedTickTrace_closed {s : State} (h : s.countdown = 0#16) : mergedTickTrace s = tickPairs s := by
  have hopen : ¬ selfTestOpen s = true := fun e => (selfTestOpen_iff s).mp e h
  rw [mergedTickTrace, if_neg hopen, tickPairs, if_pos h]; rfl

/-- In the window the merged tick leaves out the third of the four pairs, the transient of step 4 (R107). -/
theorem mergedTickTrace_open {s : State} (h : s.countdown ≠ 0#16) : mergedTickTrace s = (tickPairs s).eraseIdx 2 := by
  rw [mergedTickTrace, if_pos ((selfTestOpen_iff s).mpr h), tickPairs, if_neg h]; rfl

theorem mergedTickTrace_sublist (s : State) : (mergedTickTrace s).Sublist (tickPairs s) := by
  by_cases h : s.countdown = 0#16
  · rw [mergedTickTrace_closed h]
  · rw [mergedTickTrace_open h]
    exact List.eraseIdx_sublist _ _

theorem mergedTickTrace_getLast? (s : State) : (mergedTickTrace s).getLast? = (tickPairs s).getLast? := by
  by_cases h : s.countdown = 0#16
  · rw [mergedTickTrace_closed h]
  · rw [mergedTickTrace_open h, tickPairs, if_neg h]; rfl

theorem tickPairs_length (s : State) :
    (tickPairs s).length = (mergedTickTrace s).length + if s.countdown = 0#16 then 0 else 1 := by
  by_cases h : s.countdown = 0#16
  · rw [mergedTickTrace_closed h, if_pos h, Nat.add_zero]
  · rw [tickPairs, if_neg h, if_neg h]; rfl

/-- Settles O30: the pairs of the tick against those of the merged one, in the window and outside it. -/
theorem mergedTickIsASubTrace : Obligations.MergedTickIsASubTrace := by
  unfold Obligations.MergedTickIsASubTrace
  intro s rest hnext
  have hlast : (tickPairs s).getLast? = some (latches (onTick { s with input := rest })) :=
    tickPairs_getLast? { s with input := rest }
  exact ⟨_, tickPairs s, step_tick hnext, onTick_trace_eq { s with input := rest }, mergedTickTrace_sublist s, rfl,
    hlast, (mergedTickTrace_getLast? s).trans hlast, tickPairs_length s⟩

/-! ### A command between two steps of a tick -/

/-- An update that leaves the parameters and the store, and does the same whatever the store holds. -/
structure IgnoresStore (f : State → State) : Prop where
  cfg : ∀ s, (f s).cfg = s.cfg
  rss : ∀ s, (f s).rss = s.rss
  memWrite : ∀ k v s, f (memWrite k v s) = memWrite k v (f s)

/-- Such an update commutes with every command. -/
theorem IgnoresStore.commandResult_comm {f : State → State} (hf : IgnoresStore f) (i : Instr) (s : State) :
    commandResult i (f s) = f (commandResult i s) := by
  obtain ⟨k, hk, -⟩ | ⟨hc, -⟩ := columnEntry_cases i.column
  · rw [commandResult_writes hk, commandResult_writes hk, hf.memWrite, hf.cfg, memRead_congr (hf.rss s)]
  · rw [commandResult_discards hc, commandResult_discards hc]

theorem tickBlank_ignoresStore : IgnoresStore tickBlank := ⟨fun _ => rfl, fun _ => rfl, fun _ _ _ => rfl⟩

theorem tickAdvance_ignoresStore : IgnoresStore tickAdvance := ⟨fun _ => rfl, fun _ => rfl, fun _ _ _ => rfl⟩

theorem tickSelect_ignoresStore : IgnoresStore tickSelect := ⟨fun _ => rfl, fun _ => rfl, fun _ _ _ => rfl⟩

theorem tickSelfTest_ignoresStore : IgnoresStore tickSelfTest where
  cfg s := by unfold tickSelfTest; split <;> rfl
  rss s := by unfold tickSelfTest; split <;> rfl
  memWrite k v s := by unfold tickSelfTest selfTestOpen; rw [memWrite_countdown]; split <;> rfl

/-- The steps before step 4 do not look at the store. -/
theorem steps_before_drive_ignoreStore {k : Nat} (hk : k ≤ 3) : ∀ f ∈ tickSteps.take k, IgnoresStore f := by
  intro f hf
  have hmem : f ∈ [tickBlank, tickAdvance, tickSelect] := (List.take_subset_take_left tickSteps hk) hf
  simp only [List.mem_cons, List.not_mem_nil, or_false] at hmem
  obtain rfl | rfl | rfl := hmem
  · exact tickBlank_ignoresStore
  · exact tickAdvance_ignoresStore
  · exact tickSelect_ignoresStore

/-- Nor does the step after it. -/
theorem steps_after_drive_ignoreStore {k : Nat} (hk : 4 ≤ k) : ∀ f ∈ tickSteps.drop k, IgnoresStore f := by
  intro f hf
  have hmem : f ∈ [tickSelfTest] := List.drop_subset_drop_left tickSteps hk hf
  rw [List.mem_singleton.mp hmem]
  exact tickSelfTest_ignoresStore

/-- A command commutes with steps that do not look at the store. -/
theorem commandResult_doSteps {steps : List (State → State)} (h : ∀ f ∈ steps, IgnoresStore f) (i : Instr) (s : State) :
    commandResult i (doSteps steps s) = doSteps steps (commandResult i s) := by
  unfold doSteps
  induction steps generalizing s with
  | nil => rfl
  | cons f steps ih =>
    obtain ⟨hf, hsteps⟩ := List.forall_mem_cons.mp h
    rw [List.foldl_cons, List.foldl_cons, ih hsteps, hf.commandResult_comm]

/-- The steps before a place and those after it make the tick. -/
theorem doSteps_take_drop (k : Nat) (s : State) :
    doSteps (tickSteps.drop k) (doSteps (tickSteps.take k) s) = onTick s := by
  unfold doSteps
  rw [← List.foldl_append, List.take_append_drop]
  rfl

/-- Settles O44: the command moves to the front over the steps before step 4, or to the end over the step after it. -/
theorem commandInsideATickIsOneOfTheTwoOrders : Obligations.CommandInsideATickIsOneOfTheTwoOrders := by
  unfold Obligations.CommandInsideATickIsOneOfTheTwoOrders
  intro i s k
  refine ⟨_, exec_eq i _, fun hbefore => ⟨_, exec_eq i s, ?_⟩, fun hafter => ?_⟩
  · rw [commandResult_doSteps (steps_before_drive_ignoreStore hbefore), doSteps_take_drop]
  · rw [exec_eq, ← commandResult_doSteps (steps_after_drive_ignoreStore hafter), doSteps_take_drop]

end Sys2Proof.Proofs
end

section
/-! SUPPORT. Proofs about reset and the invariant of every reachable state (R33, R111, R140, R142): it holds at reset,
every event keeps it, and under it the driven LEDs stand in one column (R109). -/

namespace Sys2Proof.Proofs

open Sys2Proof.Machine Sys2Proof.Claims

/-! ### Reset -/

/-- Settles O33: each field by the reset state, the entries by what a store filled with one value holds. -/
theorem resetConstantHoldsTheStandardValues : Obligations.ResetConstantHoldsTheStandardValues := by
  unfold Obligations.ResetConstantHoldsTheStandardValues
  exact ⟨memRead_resetOf Config.standard, rfl, rfl, rfl, rfl, rfl, rfl, rfl⟩

/-- A moment that includes a reset is taken as the reset alone (R142). -/
theorem orders_of_reset {x : Arrivals} (h : x.reset = true) : x.orders = [[.reset]] := by
  unfold Arrivals.orders
  exact if_pos h

/-- Settles O34: the reset is the last event, and it keeps nothing but the parameters and the input. -/
theorem everyResetIsTheSame : Obligations.EveryResetIsTheSame := by
  unfold Obligations.EveryResetIsTheSame
  intro es s x hreset order horder
  rw [orders_of_reset hreset, List.mem_singleton] at horder
  rw [horder, process_eq, runResult_append, runResult_cons, runResult_nil]
  change Host.Outcome.next { State.resetOf (runResult es s).cfg with input := (runResult es s).input } = _
  rw [runResult_cfg, runResult_input]

/-! ### The anti-ghost condition -/

/-- The condition is one of neighbours, so the library's chains apply. -/
theorem antiGhost_iff_isChain (blank : Entry) (pairs : List LatchPair) :
    antiGhost blank pairs ↔ pairs.IsChain (blankSwitch blank) := by
  induction pairs with
  | nil => simp [antiGhost]
  | cons p pairs ih =>
    cases pairs with
    | nil => simp [antiGhost]
    | cons q rest => rw [antiGhost, ih, List.isChain_cons_cons]

/-- Pairs of one column need no blank. -/
theorem blankSwitch_of_same_column (blank : Entry) {p q : LatchPair} (h : p.2 = q.2) : blankSwitch blank p q :=
  fun hne => absurd h hne

theorem tickPairs_head? (s : State) : (tickPairs s).head? = some (allOff s.cfg.rowOnLevel, s.colOut) := rfl

/-- Within a tick the column changes between its first two pairs only, and both are blank (R101, R103). -/
theorem antiGhost_tickPairs (s : State) : antiGhost (allOff s.cfg.rowOnLevel) (tickPairs s) := by
  have hselect : blankSwitch (allOff s.cfg.rowOnLevel) (allOff s.cfg.rowOnLevel, s.colOut)
      (allOff s.cfg.rowOnLevel, colTab (nextColumn s.cursor)) := fun _ => ⟨rfl, rfl⟩
  unfold tickPairs
  by_cases h : s.countdown = 0#16
  · rw [if_pos h]
    exact ⟨hselect, blankSwitch_of_same_column _ rfl, trivial⟩
  · rw [if_neg h]
    exact ⟨hselect, blankSwitch_of_same_column _ rfl, blankSwitch_of_same_column _ rfl, trivial⟩

/-- The first pair of a tick continues the column the latches held, so a tick extends a trace without a ghost. -/
theorem antiGhost_append_tickPairs {s : State} (hghost : antiGhost (allOff s.cfg.rowOnLevel) s.trace)
    (hlast : s.trace ≠ [] → s.trace.getLast? = some (latches s)) :
    antiGhost (allOff s.cfg.rowOnLevel) (s.trace ++ tickPairs s) := by
  rw [antiGhost_iff_isChain] at hghost ⊢
  refine List.isChain_append.mpr ⟨hghost, (antiGhost_iff_isChain _ _).mp (antiGhost_tickPairs s), fun p hp q hq => ?_⟩
  have hne : s.trace ≠ [] := fun hnil => by simp [hnil] at hp
  rw [hlast hne, Option.mem_some_iff] at hp
  rw [tickPairs_head?, Option.mem_some_iff] at hq
  rw [← hp, ← hq]
  exact blankSwitch_of_same_column _ rfl

/-! ### The invariant -/

/-- The invariant does not look at the store. -/
theorem inv_of_storeOnly {s t : State} (ht : t = { s with rss := t.rss }) (hs : Inv s) : Inv t := by
  rw [ht]
  exact ⟨hs.countdown_le, hs.before_first_tick, hs.after_first_tick, hs.anti_ghost⟩

/-- Nor at the events to come. -/
theorem inv_withInput {s : State} (hs : Inv s) (rest : List Event) : Inv { s with input := rest } :=
  ⟨hs.countdown_le, hs.before_first_tick, hs.after_first_tick, hs.anti_ghost⟩

theorem inv_resetOf (cfg : Config) : Inv (State.resetOf cfg) where
  countdown_le := BitVec.le_refl _
  before_first_tick _ := ⟨rfl, rfl, rfl, rfl⟩
  after_first_tick h := absurd rfl h
  anti_ghost := trivial

/-- A tick keeps the invariant: its last pair is what the latches hold, and no column change is seen with driven rows. -/
theorem inv_onTick {s : State} (hs : Inv s) : Inv (onTick s) := by
  have hlast : (onTick s).trace.getLast? = some (latches (onTick s)) := by
    rw [onTick_trace_eq, List.getLast?_append, tickPairs_getLast?, Option.some_or]
  refine ⟨?_, fun hnil => ?_, fun _ => ⟨hlast, onTick_colOut s⟩, ?_⟩
  · have hle := hs.countdown_le
    rw [BitVec.le_def] at hle ⊢
    rw [onTick_countdown_toNat, onTick_cfg]
    exact (Nat.sub_le _ _).trans hle
  · rw [hnil] at hlast
    cases hlast
  · rw [onTick_cfg, onTick_trace_eq]
    exact antiGhost_append_tickPairs hs.anti_ghost fun hne => (hs.after_first_tick hne).1

theorem inv_eventResult (e : Event) {s : State} (hs : Inv s) : Inv (eventResult e s) := by
  cases e with
  | reset => exact inv_withInput (inv_resetOf s.cfg) s.input
  | tick => exact inv_onTick hs
  | rx b err => exact inv_of_storeOnly (eventResult_rx_frame b err s) hs

/-- Settles O35: nothing is emitted yet, and every register stands as reset leaves it. -/
theorem invariantHoldsAtReset : Obligations.InvariantHoldsAtReset := by
  unfold Obligations.InvariantHoldsAtReset
  exact ⟨inv_resetOf, inv_resetOf Config.standard⟩

/-- Settles O36: a step is idle or one event, and every event keeps the invariant. -/
theorem everyStepKeepsTheInvariant : Obligations.EveryStepKeepsTheInvariant := by
  unfold Obligations.EveryStepKeepsTheInvariant
  intro s t hs hstep
  obtain ⟨-, rfl⟩ | ⟨e, rest, -, rfl⟩ := step_cases hstep
  · exact hs
  · exact inv_eventResult e (inv_withInput hs rest)

/-! ### The driven LEDs -/

/-- The one column line that can be active is CURSOR's. -/
theorem cursor_of_active {s : State} (hs : Inv s) {c : Column} (hc : s.colOut.getLsbD c.val = false) : c = s.cursor := by
  by_cases htrace : s.trace = []
  · obtain ⟨-, -, -, hcol⟩ := hs.before_first_tick htrace
    rw [hcol, noColumn_bit] at hc
    cases hc
  · rw [(hs.after_first_tick htrace).2, colTab_bit] at hc
    simpa using hc

theorem lit_iff (s : State) (c : Column) (r : Row) :
    lit s c r = true ↔ s.colOut.getLsbD c.val = false ∧ s.rowOut.getLsbD r.val = s.cfg.rowOnLevel := by
  simp [lit]

/-- Blank rows drive no LED, whatever column is selected. -/
theorem lit_of_blank {s : State} (h : s.rowOut = allOff s.cfg.rowOnLevel) (c : Column) (r : Row) : lit s c r = false := by
  rw [Bool.eq_false_iff, ne_eq, lit_iff, h, allOff_bit]
  simp

/-- Settles O37: an active column line is CURSOR's, and a driven LED needs one. -/
theorem drivenLedsStandInOneColumn : Obligations.DrivenLedsStandInOneColumn := by
  unfold Obligations.DrivenLedsStandInOneColumn
  refine ⟨fun s hs => ⟨fun c d hc hd => ?_, fun c r hlit => ?_⟩, fun s => lit_of_blank⟩
  · exact (cursor_of_active hs hc).trans (cursor_of_active hs hd).symm
  · exact cursor_of_active hs ((lit_iff s c r).mp hlit).1

end Sys2Proof.Proofs
end

section
/-! SUPPORT. Proofs about runs: what error bytes, ticks and commands each contribute to a run (R56, R114, R122), and the
scan registers n ticks on (R33, R110). -/

namespace Sys2Proof.Proofs

open Sys2Proof.Machine Sys2Proof.Claims

/-! ### Every sequence -/

/-- Settles O11: a run is its events one after the other, and none of them changes the parameters or the input. -/
theorem everyEventSequenceIsHandled : Obligations.EveryEventSequenceIsHandled := by
  unfold Obligations.EveryEventSequenceIsHandled
  exact fun es s => ⟨_, process_eq es s, runResult_input es s, runResult_cfg es s⟩

/-- Events that change nothing can be left out of a run. -/
theorem runResult_filter {keep : Event → Bool} (h : ∀ e, keep e = false → ∀ s, eventResult e s = s) (es : List Event)
    (s : State) : runResult (es.filter keep) s = runResult es s := by
  induction es generalizing s with
  | nil => rfl
  | cons e es ih =>
    cases hkeep : keep e with
    | true => rw [List.filter_cons_of_pos hkeep, runResult_cons, runResult_cons, ih]
    | false => rw [List.filter_cons_of_neg (by simp [hkeep]), runResult_cons, h e hkeep, ih]

/-- Settles O10: a byte in error is an event that changes nothing. -/
theorem omittingErrorBytesIsTheSameMachine : Obligations.OmittingErrorBytesIsTheSameMachine := by
  unfold Obligations.OmittingErrorBytesIsTheSameMachine
  intro es s
  rw [process_eq, process_eq, runResult_filter]
  intro e hdropped s
  cases e with
  | reset => cases hdropped
  | tick => cases hdropped
  | rx b err =>
    obtain rfl : err = true := by simpa using hdropped
    rfl

/-! ### The store over a run -/

/-- Ticks and bytes in error leave the store alone, and each command writes it by what it holds: stores that start the same
end the same when these are left out of one of the runs. -/
theorem runResult_filter_rss {v : Variant} {es : List Event} (hnoReset : noReset es = true) {s u : State}
    (hv : s.cfg.variant = v) (hrss : s.rss = u.rss) (hcfg : s.cfg = u.cfg) :
    (runResult es s).rss = (runResult (es.filter fun e => (eventCommand v e).isSome) u).rss := by
  induction es generalizing s u with
  | nil => exact hrss
  | cons e es ih =>
    obtain ⟨he, hes⟩ := noReset_cons.mp hnoReset
    have hv' : (eventResult e s).cfg.variant = v := by rw [eventResult_cfg, hv]
    cases e with
    | reset => exact absurd rfl he
    | tick =>
      rw [List.filter_cons_of_neg (by simp [eventCommand]), runResult_cons]
      exact ih hes hv' ((onTick_rss s).trans hrss) ((onTick_cfg s).trans hcfg)
    | rx b err =>
      cases err with
      | true =>
        rw [List.filter_cons_of_neg (by simp [eventCommand]), runResult_cons]
        exact ih hes hv' hrss hcfg
      | false =>
        rw [List.filter_cons_of_pos (by simp [eventCommand]), runResult_cons, runResult_cons]
        refine ih hes hv' ?_ (by rw [eventResult_cfg, eventResult_cfg, hcfg])
        change (commandResult (decode s.cfg.variant b) s).rss = (commandResult (decode u.cfg.variant b) u).rss
        rw [← hcfg]
        exact commandResult_rss_congr _ hrss hcfg

/-- Settles O41: the two runs start from one store. -/
theorem storeDependsOnCommandsOnly : Obligations.StoreDependsOnCommandsOnly := by
  unfold Obligations.StoreDependsOnCommandsOnly
  intro es s hnoReset
  exact ⟨_, _, process_eq _ s, process_eq _ s, runResult_filter_rss hnoReset rfl rfl rfl⟩

/-- An event that is no reset and brings no command for column k leaves its entry. -/
theorem eventResult_untouched {e : Event} {k : Column} {s : State} (he : e ≠ .reset)
    (huntouched : commandsColumn s.cfg.variant k e = false) : memRead (eventResult e s) k = memRead s k := by
  by_contra hchange
  obtain ⟨b, rfl, hcol⟩ := eventResult_changes_entry he hchange
  simp [commandsColumn, eventCommand, hcol] at huntouched

/-- An entry that no command of the sequence is for stays as it was. -/
theorem runResult_untouched {es : List Event} {k : Column} {s : State} (hnoReset : noReset es = true)
    (huntouched : Untouched s.cfg.variant k es) : memRead (runResult es s) k = memRead s k := by
  induction es generalizing s with
  | nil => rfl
  | cons e es ih =>
    obtain ⟨he, hes⟩ := noReset_cons.mp hnoReset
    obtain ⟨hfirst, hrest⟩ := List.forall_mem_cons.mp huntouched
    rw [runResult_cons, ih hes (by rwa [eventResult_cfg]), eventResult_untouched he hfirst]

/-! ### The scan registers over a run -/

/-- CURSOR counts the ticks of a sequence without reset, whatever bytes come between. -/
theorem runResult_cursor {es : List Event} (h : noReset es = true) (s : State) :
    (runResult es s).cursor = nextColumn^[ticksIn es] s.cursor := by
  induction es generalizing s with
  | nil => rfl
  | cons e es ih =>
    obtain ⟨he, hes⟩ := noReset_cons.mp h
    rw [runResult_cons, ih hes]
    cases e with
    | reset => exact absurd rfl he
    | tick =>
      have hcursor : (eventResult .tick s).cursor = nextColumn s.cursor := onTick_cursor s
      rw [hcursor, ticksIn_cons_tick, Function.iterate_succ_apply]
    | rx b err => rw [eventResult_rx_cursor, ticksIn_cons_rx]

theorem iterate_nextColumn_val (n : Nat) (c : Column) : (nextColumn^[n] c).val = (c.val + n) % 20 := by
  induction n with
  | zero => exact (Nat.mod_eq_of_lt c.isLt).symm
  | succ n ih => rw [Function.iterate_succ_apply', nextColumn_val, ih]; omega

theorem runResult_cursor_val {es : List Event} (h : noReset es = true) (s : State) :
    (runResult es s).cursor.val = (s.cursor.val + ticksIn es) % 20 := by
  rw [runResult_cursor h, iterate_nextColumn_val]

/-- COUNTDOWN at zero stays at zero: only a reset opens the window. -/
theorem runResult_countdown_closed {es : List Event} (h : noReset es = true) {s : State} (hclosed : s.countdown = 0#16) :
    (runResult es s).countdown = 0#16 := by
  rw [countdown_eq_zero_iff, runResult_countdown_toNat h, hclosed]
  exact Nat.zero_sub _

/-- Without a tick the latches stay as they were. -/
theorem runResult_latches_no_tick {es : List Event} (h : noReset es = true) (hticks : ticksIn es = 0) (s : State) :
    latches (runResult es s) = latches s := by
  induction es generalizing s with
  | nil => rfl
  | cons e es ih =>
    obtain ⟨he, hes⟩ := noReset_cons.mp h
    cases e with
    | reset => exact absurd rfl he
    | tick => rw [ticksIn_cons_tick] at hticks; cases hticks
    | rx b err =>
      rw [ticksIn_cons_rx] at hticks
      rw [runResult_cons, ih hes hticks, eventResult_rx_frame]
      rfl

/-- The selected column is CURSOR's after at least one tick, or if it was before. -/
theorem runResult_colOut {es : List Event} (h : noReset es = true) {s : State}
    (hs : 0 < ticksIn es ∨ s.colOut = colTab s.cursor) : (runResult es s).colOut = colTab (runResult es s).cursor := by
  induction es generalizing s with
  | nil => exact hs.resolve_left (Nat.lt_irrefl 0)
  | cons e es ih =>
    obtain ⟨he, hes⟩ := noReset_cons.mp h
    cases e with
    | reset => exact absurd rfl he
    | tick => exact ih hes (.inr (onTick_colOut s))
    | rx b err =>
      rw [ticksIn_cons_rx] at hs
      rw [runResult_cons, eventResult_rx_frame]
      exact ih hes hs

/-- Settles O39: the counters count, the column is selected by the first tick, and before it the rows are blank. -/
theorem countersAfterNTicks : Obligations.CountersAfterNTicks := by
  unfold Obligations.CountersAfterNTicks
  intro cfg es hnoReset
  refine ⟨_, process_eq es _, runResult_cursor_val hnoReset _, runResult_countdown_toNat hnoReset _,
    fun hticks => runResult_colOut hnoReset (.inl hticks), fun hnone => ?_⟩
  obtain ⟨hrow, hcol⟩ := Prod.mk.inj (runResult_latches_no_tick hnoReset hnone (State.resetOf cfg))
  exact ⟨hcol, lit_of_blank (by rw [hrow, runResult_cfg]; rfl)⟩

/-- Settles O42: CURSOR and COUNTDOWN count the ticks, and COL_OUT is CURSOR's column or, with no tick, the old one. -/
theorem scanIsIndependentOfCommands : Obligations.ScanIsIndependentOfCommands := by
  unfold Obligations.ScanIsIndependentOfCommands
  intro es es' s s' hnoReset hnoReset' hticks hcursor hcountdown hcol
  have hcursors : (runResult es s).cursor = (runResult es' s').cursor := by
    rw [runResult_cursor hnoReset, runResult_cursor hnoReset', hticks, hcursor]
  refine ⟨_, _, process_eq es s, process_eq es' s', hcursors, BitVec.eq_of_toNat_eq ?_, ?_⟩
  · rw [runResult_countdown_toNat hnoReset, runResult_countdown_toNat hnoReset', hticks, hcountdown]
  · obtain hnone | hsome := Nat.eq_zero_or_pos (ticksIn es)
    · have hlatch := congrArg Prod.snd (runResult_latches_no_tick hnoReset hnone s)
      have hlatch' := congrArg Prod.snd (runResult_latches_no_tick hnoReset' (hticks ▸ hnone) s')
      exact hlatch.trans (hcol.trans hlatch'.symm)
    · rw [runResult_colOut hnoReset (.inl hsome), runResult_colOut hnoReset' (.inl (hticks ▸ hsome)), hcursors]

/-! ### Refresh coverage -/

theorem renderedValues_cons_tick (es : List Event) (s : State) :
    renderedValues (.tick :: es) s = latches (onTick s) :: renderedValues es (onTick s) := rfl

theorem renderedValues_cons_rx (b : Byte) (err : Bool) (es : List Event) (s : State) :
    renderedValues (.rx b err :: es) s = renderedValues es (eventResult (.rx b err) s) := by
  rw [renderedValues, handleEvent_eq]
  rfl

/-- The columns of the next n ticks, in order. -/
def nextColumns (n : Nat) (c : Column) : List Column := (List.range n).map fun m => nextColumn^[m + 1] c

theorem nextColumns_succ (n : Nat) (c : Column) :
    nextColumns (n + 1) c = nextColumn c :: nextColumns n (nextColumn c) := by
  simp [nextColumns, List.range_succ_eq_map, Function.comp_def]

/-- The patterns a run renders are those of the columns after CURSOR, one a tick. -/
theorem renderedValues_columns {es : List Event} (h : noReset es = true) (s : State) :
    (renderedValues es s).map Prod.snd = (nextColumns (ticksIn es) s.cursor).map colTab := by
  induction es generalizing s with
  | nil => rfl
  | cons e es ih =>
    obtain ⟨he, hes⟩ := noReset_cons.mp h
    cases e with
    | reset => exact absurd rfl he
    | tick =>
      rw [renderedValues_cons_tick, List.map_cons, ih hes, onTick_cursor, ticksIn_cons_tick, nextColumns_succ,
        List.map_cons, latches, onTick_colOut, onTick_cursor]
    | rx b err => rw [renderedValues_cons_rx, ih hes, eventResult_rx_cursor, ticksIn_cons_rx]

/-- Of 20 columns in cyclic order no two are the same. -/
theorem nextColumns_nodup (c : Column) : (nextColumns 20 c).Nodup := by
  refine List.Nodup.map_on (fun m hm n hn heq => ?_) List.nodup_range
  have hval := congrArg Fin.val heq
  rw [iterate_nextColumn_val, iterate_nextColumn_val] at hval
  rw [List.mem_range] at hm hn
  omega

/-- Every column is one of the 20 after any other. -/
theorem mem_nextColumns (c d : Column) : d ∈ nextColumns 20 c := by
  refine List.mem_map.mpr ⟨(d.val + 19 - c.val) % 20, List.mem_range.mpr (Nat.mod_lt _ (by decide)), Fin.ext ?_⟩
  rw [iterate_nextColumn_val]
  omega

/-- Settles O40: the patterns in order, and each column once among 20 in cyclic order. -/
theorem twentyTicksRenderEveryColumnOnce : Obligations.TwentyTicksRenderEveryColumnOnce := by
  unfold Obligations.TwentyTicksRenderEveryColumnOnce
  intro s es hnoReset hticks
  rw [renderedValues_columns hnoReset, hticks]
  refine ⟨List.map_map, fun c => ?_⟩
  rw [List.count_map_of_injective _ _ fun _ _ => colTab_injective]
  exact List.count_eq_one_of_mem (nextColumns_nodup _) (mem_nextColumns _ c)

end Sys2Proof.Proofs
end

section
/-! SUPPORT. Proofs about what scan and commands make together: the self-test window (R128), a command's way to its LED
(R54), and the accepted race (R53). -/

namespace Sys2Proof.Proofs

open Sys2Proof.Machine Sys2Proof.Claims

/-! ### The self-test window -/

/-- What a step does to COUNTDOWN: a reset sets it, a tick counts it down, and nothing else touches it. -/
theorem step_countdown_cases {s t : State} (h : step s = .next t) :
    s.input.head? = some .reset ∨ (s.input.head? = some .tick ∧ t.countdown.toNat = s.countdown.toNat - 1) ∨
      t.countdown = s.countdown := by
  obtain ⟨-, rfl⟩ | ⟨e, rest, hin, rfl⟩ := step_cases h
  · exact .inr (.inr rfl)
  · rw [hin, List.head?_cons]
    cases e with
    | reset => exact .inl rfl
    | tick => exact .inr (.inl ⟨rfl, onTick_countdown_toNat _⟩)
    | rx b err => exact .inr (.inr (eventResult_rx_countdown b err _))

theorem setCountdown_ignoresStore (n : BitVec 16) : IgnoresStore (setCountdown n) :=
  ⟨fun _ => rfl, fun _ => rfl, fun _ _ _ => rfl⟩

/-- The tick with the window closed emits the first pairs of the tick as it is. -/
theorem tickPairs_setCountdown_prefix (s : State) : tickPairs (setCountdown 0#16 s) <+: tickPairs s :=
  List.prefix_append_right_inj _ |>.mpr (List.nil_prefix)

/-- Settles O46: COUNTDOWN by the event a step takes, the commands by what they ignore, and the tick by its pairs. -/
theorem selfTestWindowIsEnteredByResetOnly : Obligations.SelfTestWindowIsEnteredByResetOnly := by
  unfold Obligations.SelfTestWindowIsEnteredByResetOnly
  refine ⟨fun s t hstep hraised => ?_, fun s t hstep hlowered hnoReset => ?_, fun i s t n hexec => ?_,
    fun s rest hnext => ?_⟩
  · obtain hreset | ⟨-, hcount⟩ | hcount := step_countdown_cases hstep
    · exact hreset
    · omega
    · exact absurd (congrArg BitVec.toNat hcount) hraised.ne'
  · obtain hreset | ⟨htick, hcount⟩ | hcount := step_countdown_cases hstep
    · exact absurd hreset hnoReset
    · exact ⟨htick, by omega⟩
    · exact absurd (congrArg BitVec.toNat hcount) hlowered.ne
  · rw [exec_eq] at hexec
    injection hexec with ht
    rw [exec_eq, ← ht]
    exact congrArg Host.Outcome.next ((setCountdown_ignoresStore n).commandResult_comm i s)
  · have hnext' : Next .tick rest (setCountdown 0#16 s) := hnext
    refine ⟨_, _, step_tick hnext, step_tick hnext', ?_, ?_, ?_, ?_⟩
    · rw [onTick_rss, onTick_rss]
    · rw [onTick_cursor, onTick_cursor]
    · rw [onTick_colOut, onTick_colOut, onTick_cursor, onTick_cursor]
    · rw [onTick_trace_eq, onTick_trace_eq]
      exact (List.prefix_append_right_inj _).mpr (tickPairs_setCountdown_prefix { s with input := rest })

/-! ### From a command to its LED -/

/-- With the window closed, a tick at the end of a run renders its column's entry, and with no command for it on the way
that is the entry from before the run. -/
theorem onTick_runResult_renders {es : List Event} (h : noReset es = true) {s : State} (hclosed : s.countdown = 0#16)
    {k : Column} (huntouched : Untouched s.cfg.variant k es) (hk : (onTick (runResult es s)).cursor = k) :
    (onTick (runResult es s)).rowOut = memRead s k := by
  rw [onTick_rowOut_closed (runResult_countdown_closed h hclosed), hk, runResult_untouched h huntouched]

theorem onTick_runResult_cursor_val {es : List Event} (h : noReset es = true) (s : State) :
    (onTick (runResult es s)).cursor.val = (s.cursor.val + ticksIn es + 1) % 20 := by
  rw [onTick_cursor, nextColumn_val, runResult_cursor_val h]
  omega

theorem commandResult_cursor (i : Instr) (s : State) : (commandResult i s).cursor = s.cursor := by
  rw [(commandResult_frame i s).1]

theorem commandResult_countdown (i : Instr) (s : State) : (commandResult i s).countdown = s.countdown := by
  rw [(commandResult_frame i s).1]

theorem commandResult_colOut (i : Instr) (s : State) : (commandResult i s).colOut = s.colOut := by
  rw [(commandResult_frame i s).1]

theorem commandResult_rowOut (i : Instr) (s : State) : (commandResult i s).rowOut = s.rowOut := by
  rw [(commandResult_frame i s).1]

/-- Settles O45: the tick renders the entry the command left, and its column comes up within 20 ticks. -/
theorem commandedLedIsDrivenAtItsNextRendering : Obligations.CommandedLedIsDrivenAtItsNextRendering := by
  unfold Obligations.CommandedLedIsDrivenAtItsNextRendering
  intro i s t k hexec hclosed hk
  rw [exec_eq] at hexec
  injection hexec with ht
  subst ht
  refine ⟨fun es hnoReset huntouched w hw hcursor r on hsays => ?_,
    (k.val + 19 - s.cursor.val) % 20, Nat.mod_lt _ (by decide), fun es hnoReset hticks => ?_⟩
  · rw [process_concat_tick] at hw
    injection hw with hw
    subst hw
    have hclosed' : (commandResult i s).countdown = 0#16 := (commandResult_countdown i s).trans hclosed
    have huntouched' : Untouched (commandResult i s).cfg.variant k es := by rwa [commandResult_cfg]
    have hrow := onTick_runResult_renders hnoReset hclosed' huntouched' hcursor
    have hcfg : (onTick (runResult es (commandResult i s))).cfg = s.cfg := by
      rw [onTick_cfg, runResult_cfg, commandResult_cfg]
    have hcol := onTick_colOut_bit (runResult es (commandResult i s)) k
    rw [lit, hcol, hcursor, hrow, commandResult_bit_said hk s hsays, hcfg, beq_level_twice]
    simp
  · refine ⟨_, process_concat_tick es _, Fin.ext ?_⟩
    rw [onTick_runResult_cursor_val hnoReset, commandResult_cursor, hticks]
    omega

/-! ### The accepted race -/

/-- Tick and command leave one store in either order. -/
theorem onTick_commandResult_rss (i : Instr) (s : State) :
    (onTick (commandResult i s)).rss = (commandResult i (onTick s)).rss := by
  rw [onTick_rss, commandResult_rss_congr i (onTick_rss s) (onTick_cfg s)]

/-- For 1 to 19 ticks CURSOR is at other columns. -/
theorem runResult_cursor_ne {es : List Event} (h : noReset es = true) (hpos : 0 < ticksIn es) (hlt : ticksIn es < 20)
    (s : State) : (runResult es s).cursor ≠ s.cursor := by
  intro heq
  have hval := congrArg Fin.val heq
  rw [runResult_cursor_val h] at hval
  omega

/-- The 20th tick brings CURSOR back. -/
theorem onTick_runResult_cursor_returns {es : List Event} (h : noReset es = true) (hticks : ticksIn es = 19) (s : State) :
    (onTick (runResult es s)).cursor = s.cursor := by
  refine Fin.ext ?_
  rw [onTick_runResult_cursor_val h, hticks]
  omega

/-- Settles O43: both orders leave one store; the stale one renders its column again 20 ticks later, and not before. -/
theorem coincidentTickAndByteRace : Obligations.CoincidentTickAndByteRace := by
  unfold Obligations.CoincidentTickAndByteRace
  intro s b hclosed _ k x
  have hbyteFirst : process [.rx b false, .tick] s = .next (onTick (commandResult (decode s.cfg.variant b) s)) :=
    process_eq _ s
  have htickFirst : process [.tick, .rx b false] s =
      .next (commandResult (decode (onTick s).cfg.variant b) (onTick s)) := process_eq _ s
  rw [onTick_cfg] at htickFirst
  generalize decode s.cfg.variant b = i at hbyteFirst htickFirst
  have hstores := onTick_commandResult_rss i s
  have hcursor : (onTick (commandResult i s)).cursor = k := by rw [onTick_cursor, commandResult_cursor]
  have hcursor' : (commandResult i (onTick s)).cursor = k := by rw [commandResult_cursor, onTick_cursor]
  have hclosed' : (commandResult i (onTick s)).countdown = 0#16 := by
    rw [commandResult_countdown, countdown_eq_zero_iff, onTick_countdown_toNat, hclosed]
    rfl
  have hcfg' : (commandResult i (onTick s)).cfg = s.cfg := by rw [commandResult_cfg, onTick_cfg]
  refine ⟨_, _, rfl, hbyteFirst, htickFirst, ?_, ?_, hstores, hcursor.trans hcursor'.symm, ?_, ?_,
    fun es hnoReset huntouched => ⟨fun hpos hlt => ⟨_, process_eq es _, ?_⟩, fun hticks =>
      ⟨_, process_concat_tick es _, ?_, ?_⟩⟩⟩
  · rw [onTick_colOut, hcursor]
  · rw [commandResult_colOut, onTick_colOut, onTick_cursor]
  · rw [onTick_rowOut_closed ((commandResult_countdown i s).trans hclosed), hcursor]
    exact memRead_congr (onTick_rss _).symm k
  · rw [commandResult_rowOut, onTick_rowOut_closed hclosed, onTick_cursor]
  · rw [← hcursor']
    exact runResult_cursor_ne hnoReset hpos hlt _
  · rw [onTick_colOut, onTick_runResult_cursor_returns hnoReset hticks, hcursor']
  · rw [memRead_congr hstores]
    have hreturns := (onTick_runResult_cursor_returns hnoReset hticks (commandResult i (onTick s))).trans hcursor'
    exact onTick_runResult_renders hnoReset hclosed' (hcfg'.symm ▸ huntouched) hreturns

end Sys2Proof.Proofs
end

section
/-! SUPPORT. Proof about the physical outputs: a complete wiring shows every column line (R26). -/

namespace Sys2Proof.Proofs

open Sys2Proof.Machine Sys2Proof.Claims

theorem mem_pins_of_complete {m : PinMap} (h : pinMapComplete m = true) (c : Column) :
    Pin.line c ∈ m.group0 ++ m.group1 ++ m.group2 := by
  unfold pinMapComplete at h
  rw [List.all_eq_true] at h
  have hcount := eq_of_beq (h c (List.mem_finRange c))
  exact List.count_pos_iff.mp (hcount ▸ Nat.one_pos)

/-- Equal outputs carry equal levels on every pin. -/
theorem pinLevel_eq_of_outputs_eq {m : PinMap} {x y : ColLines} (h : pinOutputs m x = pinOutputs m y) {p : Pin}
    (hp : p ∈ m.group0 ++ m.group1 ++ m.group2) : pinLevel x p = pinLevel y p := by
  unfold pinOutputs at h
  simp only [Prod.mk.injEq, List.map_inj_left] at h
  obtain ⟨h0, h1, h2⟩ := h
  simp only [List.mem_append] at hp
  obtain (hp | hp) | hp := hp
  · exact h0 p hp
  · exact h1 p hp
  · exact h2 p hp

/-- Settles O47: each column line stands on a pin, where the equal outputs show it. -/
theorem completePinMapIsInjective : Obligations.CompletePinMapIsInjective := by
  unfold Obligations.CompletePinMapIsInjective
  intro m x y hcomplete houtputs
  exact BitVec.eq_of_getLsbD_eq fun c hc =>
    pinLevel_eq_of_outputs_eq houtputs (mem_pins_of_complete hcomplete ⟨c, hc⟩)

end Sys2Proof.Proofs
end
